-- ==== Sys2Proof/Word.lean ====
section
/-!
DEFINITION. The words of the block: bytes, 16-bit register values, tile counts and colours. Every value is unsigned (R7).
-/

namespace Sys2Proof

/-- An 8-bit channel, or one byte of an input file (R6 `CHANNEL_BITS`). -/
abbrev Byte := BitVec 8

/-- A 16-bit register value: the dimensions, the offsets, the logical view (R6 `DIM_BITS`). -/
abbrev Half := BitVec 16

/-- A tile count along one axis, 13 bits (R6 `TCOUNT_BITS`, R34). -/
abbrev TileCount := BitVec 13

/-- A colour, exactly 24 bits (R6 `COLOR_BITS`, R70). -/
abbrev Colour := BitVec 24

end Sys2Proof
end

