-- ==== Sys2Proof/Syntax.lean ====
section
/-!
DEFINITION. The twelve operations (R80). None has an explicit operand, register or immediate field (R77, R78).
-/

namespace Sys2Proof

/-- The operations, one constructor per row of the operation map R80. -/
inductive Instr where
  /-- IDL: idle, wait for START (R140). -/
  | idl
  /-- CHK: check dimensions (R143). -/
  | chk
  /-- LDT: load tile (R100). -/
  | ldt
  /-- ROT: 2×2 block rotation (R103). -/
  | rot
  /-- QSW: quadrant swap (R105). -/
  | qsw
  /-- MCS: middle-column shuffle (R107). -/
  | mcs
  /-- RGS: row-group shuffle (R109). -/
  | rgs
  /-- PLT: place tile (R120). -/
  | plt
  /-- MIR: mirror frame (R124). -/
  | mir
  /-- CRP: crop, open the logical view (R127). -/
  | crp
  /-- HLT: halt, frame done (R145). -/
  | hlt
  /-- ERR: fault halt (R146). -/
  | err
deriving DecidableEq, Repr

end Sys2Proof
end

