-- ==== Sys2Proof/WellFormed.lean ====
section
/-!
DEFINITION. What is well formed: an instruction (all of them: no operand field to be wrong, R77), an operation code (R81), the
value of the `ERR` register (R27, U17), an input file (R90, R93).
-/

namespace Sys2Proof

/-- Every operation is well formed: the format `OP4` has no field beside the code (R77). -/
def Instr.wf : Instr → Bool
  | .idl => true
  | .chk => true
  | .ldt => true
  | .rot => true
  | .qsw => true
  | .mcs => true
  | .rgs => true
  | .plt => true
  | .mir => true
  | .crp => true
  | .hlt => true
  | .err => true

/-- A code that stands for an operation: 0xB to 0xE are reserved (R81). -/
def operationCodeWf (code : BitVec 4) : Bool :=
  code.toNat ≤ 0xA || code.toNat == 0xF

/-- A value of `ERR` that the spec's error codes allow: codes 0, 1 and 2 with cause 0, code 3 with cause 1 to 5. Everything
else is reserved and never produced (R27, R82, U17; log 11). -/
def errValueWf (value : Byte) : Bool :=
  let code := value.toNat % 16
  let cause := value.toNat / 16
  (code ≤ 2 && cause == 0) || (code == 3 && 1 ≤ cause && cause ≤ 5)

/-- An input file that neither FTR nor PSD rejects: a footer of 12 bytes and a body whose length is a positive multiple of 3
(R90, R93). -/
def bufferWf (buffer : List Byte) : Bool :=
  15 ≤ buffer.length && (buffer.length - 12) % 3 == 0

end Sys2Proof
end

