-- ==== Sys2Proof/Decode.lean ====
section
/-!
DEFINITION. From an operation code to an operation, total, rejecting reserved codes by name; and the encoder. The code is the
value of `PHASE`; there is no instruction memory (R65, R77).
-/

namespace Sys2Proof

/-- Why a code is no operation. -/
inductive DecodeError where
  /-- The code is one of 0xB, 0xC, 0xD, 0xE (R81). -/
  | reservedCode (code : BitVec 4)
deriving DecidableEq, Repr

/-- The operation map R80, row by row; what it lists as reserved is rejected. -/
def decode (code : BitVec 4) : Except DecodeError Instr :=
  match code with
  | 0x0#4 => .ok .idl
  | 0x1#4 => .ok .chk
  | 0x2#4 => .ok .ldt
  | 0x3#4 => .ok .rot
  | 0x4#4 => .ok .qsw
  | 0x5#4 => .ok .mcs
  | 0x6#4 => .ok .rgs
  | 0x7#4 => .ok .plt
  | 0x8#4 => .ok .mir
  | 0x9#4 => .ok .crp
  | 0xA#4 => .ok .hlt
  | 0xF#4 => .ok .err
  | reserved => .error (.reservedCode reserved)

/-- The code of an operation (R80). -/
def encode : Instr → BitVec 4
  | .idl => 0x0#4
  | .chk => 0x1#4
  | .ldt => 0x2#4
  | .rot => 0x3#4
  | .qsw => 0x4#4
  | .mcs => 0x5#4
  | .rgs => 0x6#4
  | .plt => 0x7#4
  | .mir => 0x8#4
  | .crp => 0x9#4
  | .hlt => 0xA#4
  | .err => 0xF#4

/-- The decoder on a word of the opcode table: the code is bits 3:0, and a word with a higher bit set is no operation, since
`OP4` has no such bit (R77; log 13). -/
def decodeTableWord (_nbits w : Nat) : Option Instr :=
  if w < 16 then
    match decode (BitVec.ofNat 4 w) with
    | .ok i => some i
    | .error _ => none
  else none

end Sys2Proof
end

