-- ==== Sys2Proof/Config.lean ====
section
/-!
DEFINITION. What an implementation of the block fixes, and the one free value: the OPEN parameter `FB_MAX_PIXELS` and the
content of the tile buffer after a reset.
-/

namespace Sys2Proof

/-- The parameters R6 marks OPEN that a run depends on. A value of this type stands in the state, because the parameter is an
argument of the model (log 7). -/
structure Config where
  /-- `FB_MAX_PIXELS`: how many cells the frame buffer can hold (R6, R143 cause 5). -/
  fbMaxPixels : Nat
deriving DecidableEq, Repr

/-- R6's default of `FB_MAX_PIXELS`: 65528 times 65528, which no legal frame exceeds. -/
def Config.standard : Config := { fbMaxPixels := 4293918784 }

/-- The content of tile register number `cell` after reset number `draw`: a free value, since R190 to R192 leave it
unspecified. It has no body, so nothing can be proved of it (log 3). -/
opaque Config.unspecifiedColour (draw cell : Nat) : Colour

end Sys2Proof
end

