-- ==== Sys2Proof/Machine/State.lean ====
section
/-!
DEFINITION. The state of the block (10_state.md), what the host can ask of it, the reasons a step can stop, and the state
after reset (R191).
-/

namespace Sys2Proof.Machine

/-- The tile buffer `T`: 64 colour registers, register number `8*c + r` at column `c`, row `r` (R20, R21). -/
abbrev Tile := Vector Colour 64

/-- The frame buffer: (cell number, colour) pairs with strictly rising cell numbers. A cell not listed holds no value: it is
one that nothing has written since reset (R36, R190; log 4, log 5). -/
abbrev Memory := List (Nat × Colour)

/-- The sixteen entries of the register file (R25). -/
inductive Reg where
  | ctrl | status | err | width | height | lwidth | lheight | phase
  | tx | ty | offx | offy | vw | vh
  /-- index 0xE -/
  | reservedE
  /-- index 0xF -/
  | reservedF
deriving DecidableEq, Repr

/-- A pixel as a read-out returns it: three unsigned 8-bit channels (R128). -/
structure Pixel where
  red   : Byte
  green : Byte
  blue  : Byte
deriving DecidableEq, Repr

/-- What the host can do in one step (R85, R154 to R156). Registers are named by their index (R25). -/
inductive HostAction where
  /-- `wr <REG> <value>`: a register write (R154). -/
  | wr (index : BitVec 4) (value : Half)
  /-- `rd <REG>`: a register read (R154). -/
  | rd (index : BitVec 4)
  /-- `push <colour>` (R155). -/
  | push (colour : Colour)
  /-- `fbrd (x,y)`: a read of the full raster (R129). -/
  | fbrd (x y : Half)
  /-- `lvrd (x,y)`: a read of the logical raster (R130). -/
  | lvrd (x y : Half)
  /-- `reset`: the reset input (R190). -/
  | reset
deriving DecidableEq, Repr

/-- Whose step it is: the engine's, or the host's with one action (R11). -/
inductive Turn where
  | engine
  | host (action : HostAction)
deriving DecidableEq, Repr

/-- What a read returned to the host. -/
inductive Reply where
  /-- the value of a register, zero-extended to 16 bits (R154) -/
  | register (value : Half)
  /-- the channels of a cell (R128) -/
  | pixel (value : Pixel)
deriving DecidableEq, Repr

/-- Why the machine stops. The spec's own fault, `InvalidDimensions`, is not here: it is a next state (R170). -/
inductive Fault where
  /-- Raised by PLT in a state whose tile does not lie inside the frame, so that it would write a cell that does not exist
  (R36, R53, U13). No run reaches such a state (R121). Safe: the model stops (log 6). -/
  | cellOutsideFrame
deriving DecidableEq, Repr

/-- Why the model gives a step no meaning. -/
inductive Refusal where
  /-- Raised by `exec` for an operation not modelled yet. Safe. -/
  | notModelled (mnemonic : String)
  /-- Raised by `step` in a state whose `PHASE` holds a reserved code (R81, R176 item a). Safe (log 10). -/
  | reservedOperation (code : BitVec 4)
  /-- Raised by `step` in a state whose `ERR` holds a reserved value (R27, U17). Safe (log 11). -/
  | reservedErrValue (value : Byte)
  /-- Raised by a read-out made while `DONE` is 0 (R131, R176 item b). Safe. -/
  | readOutBeforeDone
  /-- Raised by a read-out outside the raster (R131, R176 item b). Safe. -/
  | readOutOutsideRaster
  /-- Raised by MIR and by a read-out that would read a frame buffer cell nothing has written since reset (R176 item c,
  U12). No run reaches such a state (R66). Safe (log 4). -/
  | unwrittenCell
deriving DecidableEq, Repr

end Sys2Proof.Machine

namespace Sys2Proof.Machine

/-- The state of the block. `STATUS` is a function of `phase` and `CTRL` stores nothing, so neither has a field (R24, R26). -/
@[ext]
structure State where
  /-- `PHASE`: the code of the operation the next engine step executes (R23). -/
  phase   : BitVec 4
  /-- `ERR`: `CODE` in bits 3:0, `CAUSE` in bits 7:4 (R27). -/
  err     : Byte
  /-- `WIDTH` (R28). -/
  width   : Half
  /-- `HEIGHT` (R29). -/
  height  : Half
  /-- `LWIDTH` (R30). -/
  lwidth  : Half
  /-- `LHEIGHT` (R31). -/
  lheight : Half
  /-- `TX` (R34). -/
  tx      : TileCount
  /-- `TY` (R34). -/
  ty      : TileCount
  /-- `OFFX` (R35). -/
  offx    : Half
  /-- `OFFY` (R35). -/
  offy    : Half
  /-- `VW` (R37). -/
  vw      : Half
  /-- `VH` (R37). -/
  vh      : Half
  /-- `T` (R20). -/
  tile    : Tile
  /-- `FB` (R36). -/
  frame   : Memory
  /-- `IN`, oldest colour first (R38). -/
  input   : List Colour
  /-- The model's own: the OPEN parameter of R6 (log 7). No step writes it. -/
  params  : Config
  /-- The model's own: the order in which engine and host move, next turn first; when it is empty the engine moves (R11;
  log 8). -/
  turns   : List Turn
  /-- The model's own: what the host's reads have returned, oldest first (log 9). -/
  replies : List Reply
  /-- The model's own: some LDT has written `T` since the last reset, so that a read of `T` is one the spec defines (R22, R176
  item c; log 3). LDT writes all 64 registers or none (R102), so one mark serves them all. No meaning depends on it. -/
  tileWritten : Bool
  /-- The model's own: how many resets there have been; picks the free value a reset leaves in `T` (log 3). -/
  draws   : Nat
deriving DecidableEq, Repr

/-- The state after reset (R190, R191): `PHASE` is IDL, every register is 0, `IN` is empty, `FB` holds no value and `T`
holds a free value (log 3). -/
def State.reset : State where
  phase   := 0x0#4
  err     := 0
  width   := 0
  height  := 0
  lwidth  := 0
  lheight := 0
  tx      := 0
  ty      := 0
  offx    := 0
  offy    := 0
  vw      := 0
  vh      := 0
  tile    := Vector.ofFn fun i : Fin 64 => Config.unspecifiedColour 0 i.val
  frame   := []
  input   := []
  params  := Config.standard
  turns   := []
  replies := []
  tileWritten := false
  draws   := 0

end Sys2Proof.Machine
end

