-- ==== Sys2Proof/Machine/Flags.lean ====
section
/-!
DEFINITION. The three flags of `STATUS`, each a function of `PHASE` and nothing else (R24). The block has no arithmetic
condition code.
-/

namespace Sys2Proof.Machine

/-- `PHASE` holds the code of `i`. -/
def State.inPhase (s : State) (i : Instr) : Bool := s.phase == encode i

/-- `BUSY`: `PHASE` is one of CHK to CRP, codes 0x1 to 0x9 (R24 bit 0). -/
def State.busy (s : State) : Bool := 1 ≤ s.phase.toNat && s.phase.toNat ≤ 9

/-- `DONE`: `PHASE` is HLT (R24 bit 1). -/
def State.done (s : State) : Bool := s.inPhase .hlt

/-- `STATUS.ERR`: `PHASE` is ERR (R24 bit 2). -/
def State.faulted (s : State) : Bool := s.inPhase .err

/-- The value of `STATUS`: bits 15 to 3 are zero (R24). -/
def State.status (s : State) : Half :=
  (BitVec.ofBool s.faulted ++ BitVec.ofBool s.done ++ BitVec.ofBool s.busy).setWidth 16

end Sys2Proof.Machine
end

