-- ==== Sys2Proof/Machine/Operands.lean ====
section
/-!
DEFINITION. The operands of the operations and of the host actions: cells of a tile, cells of the frame, the tile grid, the
fields of a colour, of a footer and of the `ERR` register, and the register map. Every operand is implicit (R79).
-/

namespace Sys2Proof.Machine

/-! ### Colours and bytes -/

/-- A colour from its three bytes: red in bits 23:16, green in 15:8, blue in 7:0 (R70). -/
def pack (r g b : Byte) : Colour :=
  (r.setWidth 24 <<< 16) ||| (g.setWidth 24 <<< 8) ||| b.setWidth 24

/-- Channel extraction (R71, R128). -/
def channels (colour : Colour) : Pixel where
  red   := colour.extractLsb' 16 8
  green := colour.extractLsb' 8 8
  blue  := colour.extractLsb' 0 8

/-- A 16-bit footer field from its two bytes, the low byte first (R72). -/
def le16 (low high : Byte) : Half :=
  low.setWidth 16 ||| (high.setWidth 16 <<< 8)

/-! ### Cells of a tile -/

/-- `T[c][r]`, which is `x[8*c + r]` (R10, R21). -/
def Tile.cell (t : Tile) (c r : Fin 8) : Colour :=
  t[8 * c.val + r.val]'(by omega)

/-- The tile whose cell `T[c][r]` holds `f c r`: the simultaneous assignment of all 64 registers (R10 `par`). -/
def Tile.tabulate (f : Fin 8 → Fin 8 → Colour) : Tile :=
  Vector.ofFn fun i : Fin 64 => f ⟨i.val / 8, by omega⟩ ⟨i.val % 8, by omega⟩

/-- The tile each of whose cells takes what the cell `source c r` held before (R10 `par`, R113: colours move, none changes). -/
def Tile.permute (source : Fin 8 → Fin 8 → Fin 8 × Fin 8) (t : Tile) : Tile :=
  Tile.tabulate fun c r => t.cell (source c r).1 (source c r).2

/-- The 64 local coordinates in the order of the load: outer loop column, inner loop row (R100). -/
def tileCoords : List (Fin 8 × Fin 8) :=
  (List.finRange 8).flatMap fun c => (List.finRange 8).map fun r => (c, r)

/-! ### The tile grid and the frame -/

/-- `GW`: tile columns of the frame, `WIDTH div 8` (R122, R152). -/
def State.tilesAcross (s : State) : Nat := s.width.toNat / 8

/-- `GH`: tile rows of the frame, `HEIGHT div 8` (R122, R152). -/
def State.tilesDown (s : State) : Nat := s.height.toNat / 8

/-- The number under which the list holds the cell `FB[x][y]`: `{y, x}` with 16 bits for each coordinate, so that the name of
a cell does not depend on `WIDTH` (R56; log 5). -/
def cellAddress (x y : Nat) : Nat := y * 65536 + x

/-- The coordinates of a raster `w` by `h` in scan order: `y` from 0 upward, within a row `x` from 0 upward (R132). -/
def scanCoords (w h : Nat) : List (Nat × Nat) :=
  (List.range h).flatMap fun y => (List.range w).map fun x => (x, y)

/-- Every cell PLT writes lies inside the frame (R53, R121). -/
def State.tileInFrame (s : State) : Bool :=
  s.offx.toNat + 7 < s.width.toNat && s.offy.toNat + 7 < s.height.toNat

/-! ### The `ERR` register -/

/-- `ERR.CODE`, bits 3:0 (R27). -/
def errCode (value : Byte) : BitVec 4 := value.extractLsb' 0 4

/-- `ERR.CAUSE`, bits 7:4 (R27). -/
def errCause (value : Byte) : BitVec 4 := value.extractLsb' 4 4

/-- The value of `ERR` with a given cause and code: `{CAUSE, CODE}` (R27). -/
def errValue (cause code : BitVec 4) : Byte := cause ++ code

/-! ### The register map -/

/-- The register an index names (R25). -/
def Reg.ofIndex (index : BitVec 4) : Reg :=
  match index with
  | 0x0#4 => .ctrl
  | 0x1#4 => .status
  | 0x2#4 => .err
  | 0x3#4 => .width
  | 0x4#4 => .height
  | 0x5#4 => .lwidth
  | 0x6#4 => .lheight
  | 0x7#4 => .phase
  | 0x8#4 => .tx
  | 0x9#4 => .ty
  | 0xA#4 => .offx
  | 0xB#4 => .offy
  | 0xC#4 => .vw
  | 0xD#4 => .vh
  | 0xE#4 => .reservedE
  | _ => .reservedF

/-- The index of a register (R25). -/
def Reg.index : Reg → BitVec 4
  | .ctrl => 0x0#4
  | .status => 0x1#4
  | .err => 0x2#4
  | .width => 0x3#4
  | .height => 0x4#4
  | .lwidth => 0x5#4
  | .lheight => 0x6#4
  | .phase => 0x7#4
  | .tx => 0x8#4
  | .ty => 0x9#4
  | .offx => 0xA#4
  | .offy => 0xB#4
  | .vw => 0xC#4
  | .vh => 0xD#4
  | .reservedE => 0xE#4
  | .reservedF => 0xF#4

end Sys2Proof.Machine
end

