-- ==== Sys2Proof/Machine/Ops.lean ====
section
/-!
DEFINITION. The operations every meaning is made of: the frame buffer's cells, the named updates of the state, taking the one
fault and leaving it by reset, fetching the operation in `PHASE`, and whose turn it is.
-/

namespace Sys2Proof.Machine

/-! ### The frame buffer -/

/-- The canonical form: cell numbers strictly rising, so no cell is listed twice. An unlisted cell has no value, so no entry
can equal what it reads as (log 4). -/
abbrev Memory.wf (m : Memory) : Prop := m.Pairwise fun p q => p.1 < q.1

/-- `MemRead` of one cell (R10): none where nothing has written it since reset. -/
def Memory.read : Memory → Nat → Option Colour
  | [], _ => none
  | (b, v) :: m, a => if a = b then some v else Memory.read m a

/-- `MemWrite` of one cell (R10, R54), at its place in the list. -/
def Memory.write : Memory → Nat → Colour → Memory
  | [], a, v => [(a, v)]
  | (b, w) :: m, a, v =>
    if a < b then (a, v) :: (b, w) :: m
    else if a = b then (a, v) :: m
    else (b, w) :: Memory.write m a v

/-- Several cells written one after another. -/
def Memory.writeAll : Memory → List (Nat × Colour) → Memory
  | m, [] => m
  | m, (a, v) :: rest => Memory.writeAll (m.write a v) rest

/-- Several cells read, all from the same memory: none if one of them has no value. -/
def Memory.readAll (m : Memory) : List Nat → Option (List Colour)
  | [] => some []
  | a :: rest =>
    match m.read a, Memory.readAll m rest with
    | some v, some vs => some (v :: vs)
    | _, _ => none

/-! ### Named updates of the state -/

/-- `PHASE <- <operation>`, the control transfer of R10. -/
def State.goTo (i : Instr) (s : State) : State := { s with phase := encode i }

/-- All 64 registers of `T` written by a stage, from what they held. -/
def State.setTile (t : Tile) (s : State) : State := { s with tile := t }

/-- All 64 registers of `T` written by a load, and the load recorded (R22; log 3). -/
def State.loadTile (t : Tile) (s : State) : State := { s with tile := t, tileWritten := true }

/-- `FB` written. -/
def State.setFrame (m : Memory) (s : State) : State := { s with frame := m }

/-- `IN` written. -/
def State.setInput (q : List Colour) (s : State) : State := { s with input := q }

/-- `TX` and `TY` written. -/
def State.setPosition (x y : TileCount) (s : State) : State := { s with tx := x, ty := y }

/-- `OFFX` and `OFFY` written. -/
def State.setOffset (x y : Half) (s : State) : State := { s with offx := x, offy := y }

/-- `VW` and `VH` written. -/
def State.setView (w h : Half) (s : State) : State := { s with vw := w, vh := h }

/-- A read's result handed to the host (log 9). -/
def State.reply (r : Reply) (s : State) : State := { s with replies := s.replies ++ [r] }

/-- The turns still to come (log 8). -/
def State.setTurns (ts : List Turn) (s : State) : State := { s with turns := ts }

/-! ### Taking the fault, and the way out of it -/

/-- `raise InvalidDimensions(cause)`: `ERR.CODE` becomes 3, `ERR.CAUSE` the cause, `PHASE` ERR, and nothing else changes
(R170). There is no handler and no saved program counter (R165). -/
def State.raiseInvalidDimensions (cause : BitVec 4) (s : State) : State :=
  { s with err := errValue cause 3#4, phase := encode .err }

/-- The reset of R190, which is the only way out of ERR and HLT (R142, R173): every register to its reset value, `IN` empty,
`FB` without a value, `T` a fresh free value and not yet written (log 3). What is the model's own (parameters, turns, replies) stays. -/
def State.resetBlock (s : State) : State :=
  { State.reset with
    tile := Vector.ofFn fun i : Fin 64 => Config.unspecifiedColour (s.draws + 1) i.val
    params := s.params
    turns := s.turns
    replies := s.replies
    draws := s.draws + 1 }

/-! ### Fetch and turns -/

/-- The operation the next engine step executes, read from `PHASE` (R23). A state with a reserved `PHASE` or `ERR` value has
no step at all: the model refuses (R81, R176 item a, U17; log 10, log 11). -/
def State.fetch (s : State) : Except Refusal Instr :=
  if errValueWf s.err then
    match decode s.phase with
    | .ok i => .ok i
    | .error (.reservedCode code) => .error (.reservedOperation code)
  else .error (.reservedErrValue s.err)

/-- Whose step it is, and the state with that turn taken off the list (R11; log 8). -/
def State.takeTurn (s : State) : Turn × State :=
  match s.turns with
  | [] => (.engine, s)
  | t :: ts => (t, s.setTurns ts)

end Sys2Proof.Machine
end

