-- ==== Sys2Proof/Machine/Permutation.lean ====
section
/-!
DEFINITION. The tile load and the four permutation stages: LDT, ROT, QSW, MCS, RGS (41_tile_permutation.md). Each stage is a
simultaneous assignment, given by the cell each cell takes its new colour from and by the operation that follows.
-/

namespace Sys2Proof.Machine

/-- LDT: with fewer than 64 colours waiting it holds and nothing changes (R102); else the `j`-th colour popped goes to
`x[j]`, the tile's offset is recorded and ROT is next (R100, R101). -/
def execLdt (s : State) : Host.Outcome State Fault Refusal :=
  if short : s.input.length < 64 then .next s
  else .next
    ((((s.loadTile (Vector.ofFn fun j : Fin 64 => s.input[j.val]'(by omega))).setInput (s.input.drop 64)).setOffset
      (8 * s.tx.setWidth 16) (8 * s.ty.setWidth 16)).goTo .rot)

/-- A stage: every cell of `T` takes what its source cell held before, and the next operation follows (R10 `par`, R113). It
never stops: before the first load it moves the free values `T` holds then (log 3). -/
def State.stage (source : Fin 8 → Fin 8 → Fin 8 × Fin 8) (following : Instr) (s : State) : Host.Outcome State Fault Refusal :=
  .next ((s.setTile (s.tile.permute source)).goTo following)

/-- ROT's source cell: in each 2×2 block aligned at even column and row, the upper-left corner takes the upper-right one,
the upper-right the lower-right, the lower-right the lower-left, the lower-left the upper-left (R103). -/
def rotSource (c r : Fin 8) : Fin 8 × Fin 8 :=
  match c.val % 2, r.val % 2 with
  | 0, 0 => (c + 1, r)
  | _, 0 => (c, r + 1)
  | 0, _ => (c, r - 1)
  | _, _ => (c - 1, r)

/-- ROT: 2×2 block rotation, counter-clockwise (R103). -/
def execRot (s : State) : Host.Outcome State Fault Refusal :=
  s.stage rotSource .qsw

/-- QSW's source cell: `(c, r)` of the upper-right quadrant and `(c-4, r+4)` of the lower-left one exchange (R105). -/
def qswSource (c r : Fin 8) : Fin 8 × Fin 8 :=
  if 4 ≤ c.val ∧ r.val < 4 then (c - 4, r + 4)
  else if c.val < 4 ∧ 4 ≤ r.val then (c + 4, r - 4)
  else (c, r)

/-- QSW: quadrant swap (R105). -/
def execQsw (s : State) : Host.Outcome State Fault Refusal :=
  s.stage qswSource .mcs

/-- MCS's source cell: columns 2, 3, 4, 5 take columns 4, 5, 2, 3; the others stay (R107). -/
def mcsSource (c r : Fin 8) : Fin 8 × Fin 8 :=
  match c.val with
  | 2 => (4, r)
  | 3 => (5, r)
  | 4 => (2, r)
  | 5 => (3, r)
  | _ => (c, r)

/-- MCS: middle-column shuffle (R107). -/
def execMcs (s : State) : Host.Outcome State Fault Refusal :=
  s.stage mcsSource .rgs

/-- RGS's source cell: rows 0, 1, 2, 3 take rows 1, 3, 0, 2, and rows 4, 5, 6, 7 take rows 5, 7, 4, 6 (R109). -/
def rgsSource (c r : Fin 8) : Fin 8 × Fin 8 :=
  match r.val with
  | 0 => (c, 1)
  | 1 => (c, 3)
  | 2 => (c, 0)
  | 3 => (c, 2)
  | 4 => (c, 5)
  | 5 => (c, 7)
  | 6 => (c, 4)
  | _ => (c, 6)

/-- RGS: row-group shuffle (R109). -/
def execRgs (s : State) : Host.Outcome State Fault Refusal :=
  s.stage rgsSource .plt

end Sys2Proof.Machine
end

