-- ==== Sys2Proof/Machine/Raster.lean ====
section
/-!
DEFINITION. The frame buffer assembler, PLT, MIR, CRP, and the read-out of the two rasters (42_raster_assembler.md).
-/

namespace Sys2Proof.Machine

/-- The 64 writes of PLT: `T[c][r]` to `FB[OFFX + c][OFFY + r]` (R120). -/
def State.tileWrites (s : State) : List (Nat × Colour) :=
  tileCoords.map fun p =>
    (cellAddress (s.offx.toNat + p.1.val) (s.offy.toNat + p.2.val), s.tile.cell p.1 p.2)

/-- PLT's advance: the next tile of the row, else the first tile of the next row, else the mirror (R122). `TX + 1` and
`TY + 1` are compared exactly, and stored only when they fit (R151). -/
def State.advance (s : State) : State :=
  if s.tx.toNat + 1 < s.tilesAcross then (s.setPosition (s.tx + 1) s.ty).goTo .ldt
  else if s.ty.toNat + 1 < s.tilesDown then (s.setPosition 0 (s.ty + 1)).goTo .ldt
  else s.goTo .mir

/-- PLT: the tile is copied into the frame at its offset, then the position advances (R120, R122). A tile that does not lie
inside the frame would write cells that do not exist, and the model stops (R36, R53; log 6). -/
def execPlt (s : State) : Host.Outcome State Fault Refusal :=
  if s.tileInFrame then .next (s.setFrame (s.frame.writeAll s.tileWrites)).advance
  else .fault .cellOutsideFrame

/-- The cells of the frame in scan order. -/
def State.frameCells (s : State) : List Nat :=
  (scanCoords s.width.toNat s.height.toNat).map fun p => cellAddress p.1 p.2

/-- For each cell of the frame, in the same order, its mirror image `FB[WIDTH - 1 - x][y]` (R124). -/
def State.mirrorCells (s : State) : List Nat :=
  (scanCoords s.width.toNat s.height.toNat).map fun p => cellAddress (s.width.toNat - 1 - p.1) p.2

/-- MIR: every cell of the frame takes what its mirror image held before (R124). A frame with a cell that nothing has written
has no content to mirror, and the model gives the step no meaning (R176 item c; log 4). -/
def execMir (s : State) : Host.Outcome State Fault Refusal :=
  match s.frame.readAll s.mirrorCells with
  | some colours => .next ((s.setFrame (s.frame.writeAll (s.frameCells.zip colours))).goTo .crp)
  | none => .refused .unwrittenCell

/-- CRP: opens the logical view; no pixel is copied (R127). -/
def execCrp (s : State) : Host.Outcome State Fault Refusal :=
  .next ((s.setView s.lwidth s.lheight).goTo .hlt)

/-! ### Read-out -/

/-- A read-out of the cell `(x, y)` of a raster `w` by `h` (R129, R130), refused while `DONE` is 0 and outside the raster
(R131). -/
def State.readOut (w h x y : Nat) (s : State) : Except Refusal Pixel :=
  if s.done then
    if x < w ∧ y < h then
      match s.frame.read (cellAddress x y) with
      | some colour => .ok (channels colour)
      | none => .error .unwrittenCell
    else .error .readOutOutsideRaster
  else .error .readOutBeforeDone

/-- `fbrd (x, y)`: the full raster, `WIDTH` by `HEIGHT` (R129). -/
def State.fullPixel (x y : Nat) (s : State) : Except Refusal Pixel :=
  s.readOut s.width.toNat s.height.toNat x y

/-- `lvrd (x, y)`: the logical raster, `VW` by `VH`, origin (0,0) (R130). -/
def State.logicalPixel (x y : Nat) (s : State) : Except Refusal Pixel :=
  s.readOut s.vw.toNat s.vh.toNat x y

/-- A whole raster in scan order (R132), read pixel by pixel; refused where one of them is. -/
def scanOut (pixel : Nat → Nat → Except Refusal Pixel) : List (Nat × Nat) → Except Refusal (List Pixel)
  | [] => .ok []
  | (x, y) :: rest =>
    match pixel x y, scanOut pixel rest with
    | .ok p, .ok ps => .ok (p :: ps)
    | .ok _, .error e => .error e
    | .error e, _ => .error e

/-- `FULL` in scan order (R132, R209). -/
def State.fullRaster (s : State) : Except Refusal (List Pixel) :=
  if s.done then scanOut (fun x y => s.fullPixel x y) (scanCoords s.width.toNat s.height.toNat)
  else .error .readOutBeforeDone

/-- `LOGICAL` in scan order (R132, R209); the empty list when `VW` or `VH` is 0. -/
def State.logicalRaster (s : State) : Except Refusal (List Pixel) :=
  if s.done then scanOut (fun x y => s.logicalPixel x y) (scanCoords s.vw.toNat s.vh.toNat)
  else .error .readOutBeforeDone

end Sys2Proof.Machine
end

