-- ==== Sys2Proof/Machine/Sequencer.lean ====
section
/-!
DEFINITION. The operations that move no data: IDL, CHK, HLT, ERR (43_sequencer_control.md).
-/

namespace Sys2Proof.Machine

/-- IDL holds: nothing changes, and IDL is tried again at the next step. Only the host's START leaves it (R140, R10 `hold`). -/
def execIdl (s : State) : Host.Outcome State Fault Refusal := .next s

/-- A frame dimension CHK rejects: 0, or not a multiple of 8, that is `v[2:0] != 0` (R143, R144 items a and b). -/
def badDimension (v : Half) : Bool := v.toNat == 0 || v.toNat % 8 != 0

/-- `WIDTH * HEIGHT`, computed in 32 bits from two 16-bit factors (R143, R153). -/
def pixelCount (w h : Half) : BitVec 32 := w.setWidth 32 * h.setWidth 32

/-- The first cause of `InvalidDimensions` that applies, in the order of R143 (R162, R168); none when all checks pass. -/
def State.dimensionCause (s : State) : Option (BitVec 4) :=
  if badDimension s.width then some 1#4
  else if badDimension s.height then some 2#4
  else if s.lwidth > s.width then some 3#4
  else if s.lheight > s.height then some 4#4
  else if (pixelCount s.width s.height).toNat > s.params.fbMaxPixels then some 5#4
  else none

/-- CHK: raise `InvalidDimensions` with the first cause that applies, or clear `TX`, `TY`, `VW`, `VH` and go on to LDT
(R143). -/
def execChk (s : State) : Host.Outcome State Fault Refusal :=
  match s.dimensionCause with
  | some cause => .next (s.raiseInvalidDimensions cause)
  | none => .next (((s.setPosition 0 0).setView 0 0).goTo .ldt)

/-- HLT is terminal: the engine does nothing and stays in HLT (R145, R147; log 1). -/
def execHlt (s : State) : Host.Outcome State Fault Refusal := .next s

/-- ERR is terminal: the engine does nothing and stays in ERR (R146, R147; log 1). -/
def execErr (s : State) : Host.Outcome State Fault Refusal := .next s

end Sys2Proof.Machine
end

