-- ==== Sys2Proof/Machine/Dispatch.lean ====
section
/-!
DEFINITION. One engine step's meaning, by operation (R2, R11).
-/

namespace Sys2Proof.Machine

def exec (i : Instr) (s : State) : Host.Outcome State Fault Refusal :=
  match i with
  | .idl => Sys2Proof.Machine.execIdl s
  | .chk => Sys2Proof.Machine.execChk s
  | .ldt => Sys2Proof.Machine.execLdt s
  | .rot => Sys2Proof.Machine.execRot s
  | .qsw => Sys2Proof.Machine.execQsw s
  | .mcs => Sys2Proof.Machine.execMcs s
  | .rgs => Sys2Proof.Machine.execRgs s
  | .plt => Sys2Proof.Machine.execPlt s
  | .mir => Sys2Proof.Machine.execMir s
  | .crp => Sys2Proof.Machine.execCrp s
  | .hlt => Sys2Proof.Machine.execHlt s
  | .err => Sys2Proof.Machine.execErr s

end Sys2Proof.Machine
end

