-- ==== Sys2Proof/Machine/HostPort.lean ====
section
/-!
DEFINITION. The host's actions: register access, the commands START and RST, `push`, the reset input and the read-outs
(10_state.md section 4, 43_sequencer_control.md section 6, 42_raster_assembler.md section 4).
-/

namespace Sys2Proof.Machine

/-- `rd <REG>`: the register's value, zero-extended to 16 bits; `CTRL` and the reserved indices read 0 (R25, R154). -/
def State.readRegister (s : State) : Reg → Half
  | .ctrl => 0
  | .status => s.status
  | .err => s.err.setWidth 16
  | .width => s.width
  | .height => s.height
  | .lwidth => s.lwidth
  | .lheight => s.lheight
  | .phase => s.phase.setWidth 16
  | .tx => s.tx.setWidth 16
  | .ty => s.ty.setWidth 16
  | .offx => s.offx
  | .offy => s.offy
  | .vw => s.vw
  | .vh => s.vh
  | .reservedE => 0
  | .reservedF => 0

/-- A write to `CTRL`: bit 1 is RST, which dominates (R142, R26); bit 0 is START, which acts in IDL only (R141). The other
bits do nothing (R26). -/
def State.writeControl (v : Half) (s : State) : State :=
  if v.getLsbD 1 then s.resetBlock
  else if v.getLsbD 0 && s.inPhase .idl then s.goTo .chk
  else s

/-- `wr <REG> v`: a command on `CTRL`; the dimension registers are stored in IDL and keep their value elsewhere (R32); every
other write is ignored (R25, R154). -/
def State.writeRegister (r : Reg) (v : Half) (s : State) : State :=
  match r with
  | .ctrl => s.writeControl v
  | .width => if s.inPhase .idl then { s with width := v } else s
  | .height => if s.inPhase .idl then { s with height := v } else s
  | .lwidth => if s.inPhase .idl then { s with lwidth := v } else s
  | .lheight => if s.inPhase .idl then { s with lheight := v } else s
  | .status => s
  | .err => s
  | .phase => s
  | .tx => s
  | .ty => s
  | .offx => s
  | .offy => s
  | .vw => s
  | .vh => s
  | .reservedE => s
  | .reservedF => s

/-- `push v`: appends the colour to `IN`, in every phase (R155). -/
def State.push (v : Colour) (s : State) : State := s.setInput (s.input ++ [v])

/-- The state after a read-out: its pixel goes to the host, or the step has no meaning (R131). -/
def State.deliver (s : State) (result : Except Refusal Pixel) : Host.Outcome State Fault Refusal :=
  match result with
  | .ok p => .next (s.reply (.pixel p))
  | .error e => .refused e

/-- One host action, one atomic step (R11, R154 to R156). -/
def performHost (a : HostAction) (s : State) : Host.Outcome State Fault Refusal :=
  match a with
  | .wr index value => .next (s.writeRegister (Reg.ofIndex index) value)
  | .rd index => .next (s.reply (.register (s.readRegister (Reg.ofIndex index))))
  | .push colour => .next (s.push colour)
  | .fbrd x y => s.deliver (s.fullPixel x.toNat y.toNat)
  | .lvrd x y => s.deliver (s.logicalPixel x.toNat y.toNat)
  | .reset => .next s.resetBlock

end Sys2Proof.Machine
end

