-- ==== Sys2Proof/Machine/Step.lean ====
section
/-!
DEFINITION. One step of the machine: the engine's operation in `PHASE`, or one host action (R11).
-/

namespace Sys2Proof.Machine

/-- One step. A state with a reserved `PHASE` or `ERR` value has none (R81, U17). Otherwise the turn list says who moves: the
engine executes the operation whose code is in `PHASE`, or the host performs its action (R11; log 8). -/
def step (s : State) : Host.Outcome State Fault Refusal :=
  match s.fetch with
  | .error r => .refused r
  | .ok i =>
    match s.takeTurn with
    | (.engine, s') => exec i s'
    | (.host a, s') => performHost a s'

/-- The state whose next step runs the operation with code `w`: the code stands in `PHASE`, which is where step fetches
from, and the next turn is the engine's; a reserved `ERR` value, with which nothing is fetched, is cleared (log 12). -/
def State.withFetchWord (s : State) (_nbits w : Nat) : State :=
  { s with
    phase := BitVec.ofNat 4 w
    turns := .engine :: s.turns
    err := if errValueWf s.err then s.err else 0 }

end Sys2Proof.Machine
end

