-- ==== Sys2Proof/Laws/Memory.lean ====
section
/-!
SUPPORT. The laws of the frame buffer: read after write, the canonical form, several cells at once.
-/

namespace Sys2Proof.Machine

@[simp] theorem Memory.read_nil (a : Nat) : Memory.read [] a = none := rfl

theorem Memory.read_write (m : Memory) (a b : Nat) (v : Colour) :
    (m.write a v).read b = if b = a then some v else m.read b := by
  induction m with
  | nil => rfl
  | cons p m ih =>
    obtain ⟨k, w⟩ := p
    simp only [Memory.write]
    split
    · rfl
    · split
      · subst k; simp only [Memory.read]; split <;> simp_all
      · simp only [Memory.read, ih]
        split <;> simp_all [eq_comm]

@[simp] theorem Memory.read_write_self (m : Memory) (a : Nat) (v : Colour) : (m.write a v).read a = some v := by
  simp [Memory.read_write]

theorem Memory.read_write_other (m : Memory) {a b : Nat} (v : Colour) (h : b ≠ a) : (m.write a v).read b = m.read b := by
  simp [Memory.read_write, h]

/-- The cells a write lists are those listed before and the one written. -/
theorem Memory.mem_write {m : Memory} {a : Nat} {v : Colour} {p : Nat × Colour} (h : p ∈ m.write a v) : p = (a, v) ∨ p ∈ m := by
  induction m with
  | nil => simpa [Memory.write] using h
  | cons q m ih =>
    simp only [Memory.write] at h
    split at h
    · simpa using h
    · split at h
      · rcases List.mem_cons.1 h with rfl | h
        · exact .inl rfl
        · exact .inr (List.mem_cons_of_mem _ h)
      · rcases List.mem_cons.1 h with rfl | h
        · exact .inr (List.mem_cons_self ..)
        · exact (ih h).imp id (List.mem_cons_of_mem _)

theorem Memory.write_wf {m : Memory} (a : Nat) (v : Colour) (h : m.wf) : (m.write a v).wf := by
  induction m with
  | nil => simp [Memory.write, Memory.wf]
  | cons p m ih =>
    obtain ⟨k, w⟩ := p
    obtain ⟨hk, hm⟩ := List.pairwise_cons.1 h
    simp only [Memory.write]
    split
    next hak =>
      refine List.pairwise_cons.2 ⟨fun q hq => ?_, h⟩
      rcases List.mem_cons.1 hq with rfl | hq
      · exact hak
      · exact Nat.lt_trans hak (hk q hq)
    next hak =>
      split
      next hka => exact List.pairwise_cons.2 ⟨fun q hq => hka ▸ hk q hq, hm⟩
      next hka =>
        refine List.pairwise_cons.2 ⟨fun q hq => ?_, ih hm⟩
        rcases Memory.mem_write hq with rfl | hq
        · show k < a; omega
        · exact hk q hq

theorem Memory.mem_writeAll {ws : List (Nat × Colour)} {m : Memory} {p : Nat × Colour} (h : p ∈ m.writeAll ws) :
    p ∈ ws ∨ p ∈ m := by
  induction ws generalizing m with
  | nil => exact .inr h
  | cons w ws ih =>
    rcases ih h with h | h
    · exact .inl (List.mem_cons_of_mem _ h)
    · exact (Memory.mem_write h).imp (fun e => by simp [e]) id

theorem Memory.writeAll_wf {m : Memory} (ws : List (Nat × Colour)) (h : m.wf) : (m.writeAll ws).wf := by
  induction ws generalizing m with
  | nil => exact h
  | cons w ws ih => exact ih (Memory.write_wf _ _ h)

/-- A cell that none of the writes names reads as before. -/
theorem Memory.read_writeAll_other {ws : List (Nat × Colour)} {m : Memory} {a : Nat} (h : ∀ p ∈ ws, p.1 ≠ a) :
    (m.writeAll ws).read a = m.read a := by
  induction ws generalizing m with
  | nil => rfl
  | cons w ws ih =>
    have hw := h w (List.mem_cons_self ..)
    exact (ih fun p hp => h p (List.mem_cons_of_mem _ hp)).trans (Memory.read_write_other _ _ hw.symm)

/-- Writes that name different cells: each cell holds what its write gave it. -/
theorem Memory.read_writeAll {ws : List (Nat × Colour)} {m : Memory} {a : Nat} {v : Colour}
    (nodup : (ws.map fun p => p.1).Nodup) (h : (a, v) ∈ ws) : (m.writeAll ws).read a = some v := by
  induction ws generalizing m with
  | nil => cases h
  | cons w ws ih =>
    obtain ⟨hw, hws⟩ := List.nodup_cons.1 nodup
    rcases List.mem_cons.1 h with rfl | h
    · exact (Memory.read_writeAll_other (m := m.write a v) fun p hp e => hw (List.mem_map.2 ⟨p, hp, e⟩)).trans
        (Memory.read_write_self ..)
    · exact ih hws h

/-- Reading several cells succeeds exactly when each has a value, and then gives those values in order. -/
theorem Memory.readAll_eq_some {m : Memory} {cells : List Nat} {vs : List Colour} :
    m.readAll cells = some vs ↔ cells.map m.read = vs.map some := by
  induction cells generalizing vs with
  | nil => cases vs <;> simp [Memory.readAll]
  | cons a cells ih =>
    cases vs with
    | nil => simp only [Memory.readAll]; split <;> simp
    | cons v vs =>
      simp only [Memory.readAll, List.map_cons, List.cons.injEq, ← ih]
      split
      next h1 h2 => simp [h1, h2]
      next h => exact ⟨nofun, fun e => (h _ _ e.1 e.2).elim⟩

theorem Memory.readAll_isSome {m : Memory} {cells : List Nat} (h : ∀ a ∈ cells, (m.read a).isSome = true) :
    ∃ vs, m.readAll cells = some vs := by
  induction cells with
  | nil => exact ⟨[], rfl⟩
  | cons a cells ih =>
    obtain ⟨v, hv⟩ := Option.isSome_iff_exists.1 (h a (List.mem_cons_self ..))
    obtain ⟨vs, hvs⟩ := ih fun b hb => h b (List.mem_cons_of_mem _ hb)
    exact ⟨v :: vs, by simp [Memory.readAll, hv, hvs]⟩

/-- Two canonical memories that read the same everywhere are the same list. -/
theorem Memory.ext_read {m n : Memory} (hm : m.wf) (hn : n.wf) (h : ∀ a, m.read a = n.read a) : m = n := by
  have absent : ∀ {k : Nat} {l : Memory}, (∀ p ∈ l, k < p.1) → l.read k = none := by
    intro k l hl
    induction l with
    | nil => rfl
    | cons p l ih =>
      have := hl p (List.mem_cons_self ..)
      simp only [Memory.read]
      rw [if_neg (by omega)]
      exact ih fun q hq => hl q (List.mem_cons_of_mem _ hq)
  induction m generalizing n with
  | nil =>
    cases n with
    | nil => rfl
    | cons q n => have := h q.1; simp [Memory.read] at this
  | cons p m ih =>
    cases n with
    | nil => have := h p.1; simp [Memory.read] at this
    | cons q n =>
      obtain ⟨hp, hm'⟩ := List.pairwise_cons.1 hm
      obtain ⟨hq, hn'⟩ := List.pairwise_cons.1 hn
      obtain ⟨a, v⟩ := p
      obtain ⟨b, w⟩ := q
      have hab : a = b := by
        rcases Nat.lt_trichotomy a b with lt | eq | gt
        · have e := h a
          rw [absent (l := (b, w) :: n)] at e
          · simp [Memory.read] at e
          · intro r hr
            rcases List.mem_cons.1 hr with rfl | hr
            · exact lt
            · exact Nat.lt_trans lt (hq r hr)
        · exact eq
        · have e := h b
          rw [absent (l := (a, v) :: m)] at e
          · simp [Memory.read] at e
          · intro r hr
            rcases List.mem_cons.1 hr with rfl | hr
            · exact gt
            · exact Nat.lt_trans gt (hp r hr)
      subst hab
      have hvw : v = w := by simpa [Memory.read] using h a
      subst hvw
      refine congrArg _ (ih hm' hn' fun k => ?_)
      by_cases hk : k = a
      · subst hk; rw [absent hp, absent hq]
      · simpa [Memory.read, hk] using h k

end Sys2Proof.Machine
end

