-- ==== Sys2Proof/Laws/Operands.lean ====
section
/-!
SUPPORT. The laws of the operands: cells of a tile, coordinates and cell numbers of the frame, the writes of PLT and MIR.
-/

namespace Sys2Proof.Machine

/-! ### Tiles -/

@[simp] theorem Tile.cell_tabulate (f : Fin 8 → Fin 8 → Colour) (c r : Fin 8) : (Tile.tabulate f).cell c r = f c r := by
  simp only [Tile.cell, Tile.tabulate, Vector.getElem_ofFn]
  congr 1 <;> (ext; simp; try omega)

@[simp] theorem Tile.cell_permute (source : Fin 8 → Fin 8 → Fin 8 × Fin 8) (t : Tile) (c r : Fin 8) :
    (t.permute source).cell c r = t.cell (source c r).1 (source c r).2 := by
  simp [Tile.permute]

/-- Two tiles with the same cells are the same tile. -/
theorem Tile.ext_cell {t u : Tile} (h : ∀ c r, t.cell c r = u.cell c r) : t = u := by
  apply Vector.ext
  intro i hi
  have e := h ⟨i / 8, by omega⟩ ⟨i % 8, by omega⟩
  simp only [Tile.cell] at e
  have : 8 * (i / 8) + i % 8 = i := by omega
  simpa only [this] using e

/-- Two permutations of a tile in a row are one. -/
theorem Tile.permute_permute (f g : Fin 8 → Fin 8 → Fin 8 × Fin 8) (t : Tile) :
    (t.permute f).permute g = t.permute fun c r => f (g c r).1 (g c r).2 :=
  Tile.ext_cell fun c r => by simp

theorem mem_tileCoords (p : Fin 8 × Fin 8) : p ∈ tileCoords := by
  obtain ⟨c, r⟩ := p
  exact List.mem_flatMap.2 ⟨c, List.mem_finRange c, List.mem_map.2 ⟨r, List.mem_finRange r, rfl⟩⟩

theorem tileCoords_nodup : tileCoords.Nodup := by decide

/-! ### Cell numbers -/

/-- Coordinates of 16 bits and cell numbers correspond one to one. -/
theorem cellAddress_inj {x y x' y' : Nat} (hx : x < 65536) (hx' : x' < 65536) :
    cellAddress x y = cellAddress x' y' ↔ x = x' ∧ y = y' := by
  unfold cellAddress; omega

theorem mem_scanCoords {w h : Nat} {p : Nat × Nat} : p ∈ scanCoords w h ↔ p.1 < w ∧ p.2 < h := by
  obtain ⟨x, y⟩ := p
  simp [scanCoords, and_comm]

theorem scanCoords_nodup (w h : Nat) : (scanCoords w h).Nodup := by
  refine List.nodup_flatMap.2 ⟨fun y _ => ?_, ?_⟩
  · exact List.Nodup.map (fun a b e => (Prod.mk.inj e).1) List.nodup_range
  · refine List.nodup_range.imp fun {a b} hab => ?_
    intro p hp hq
    obtain ⟨_, _, rfl⟩ := List.mem_map.1 hp
    obtain ⟨_, _, e⟩ := List.mem_map.1 hq
    exact hab (Prod.mk.inj e).2.symm

/-! ### The writes of PLT -/

/-- The writes of PLT are exactly the cells of the tile at its offset (R120). -/
theorem State.mem_tileWrites {s : State} {p : Nat × Colour} :
    p ∈ s.tileWrites ↔ ∃ c r : Fin 8, p = (cellAddress (s.offx.toNat + c.val) (s.offy.toNat + r.val), s.tile.cell c r) := by
  refine ⟨fun h => ?_, fun ⟨c, r, e⟩ => ?_⟩
  · obtain ⟨q, _, rfl⟩ := List.mem_map.1 h
    exact ⟨q.1, q.2, rfl⟩
  · exact List.mem_map.2 ⟨(c, r), mem_tileCoords _, e.symm⟩

/-- The 64 writes of PLT go to 64 different cells (R120). -/
theorem State.tileWrites_nodup {s : State} (h : s.tileInFrame = true) : (s.tileWrites.map fun p => p.1).Nodup := by
  simp only [State.tileInFrame, Bool.and_eq_true, decide_eq_true_eq] at h
  have := s.width.isLt
  rw [State.tileWrites, List.map_map]
  refine List.Nodup.map_on (fun p _ q _ e => ?_) tileCoords_nodup
  obtain ⟨hx, hy⟩ := (cellAddress_inj (by omega) (by omega)).1 e
  exact Prod.ext (Fin.ext (by omega)) (Fin.ext (by omega))

/-! ### The cells of MIR -/

theorem State.mem_frameCells {s : State} {a : Nat} :
    a ∈ s.frameCells ↔ ∃ x y, x < s.width.toNat ∧ y < s.height.toNat ∧ a = cellAddress x y := by
  refine ⟨fun h => ?_, fun ⟨x, y, hx, hy, e⟩ => ?_⟩
  · obtain ⟨p, hp, rfl⟩ := List.mem_map.1 h
    exact ⟨p.1, p.2, (mem_scanCoords.1 hp).1, (mem_scanCoords.1 hp).2, rfl⟩
  · exact List.mem_map.2 ⟨(x, y), mem_scanCoords.2 ⟨hx, hy⟩, e.symm⟩

theorem State.frameCells_nodup (s : State) : s.frameCells.Nodup := by
  have := s.width.isLt
  refine List.Nodup.map_on (fun p hp q hq e => ?_) (scanCoords_nodup _ _)
  have hp := (mem_scanCoords.1 hp).1
  have hq := (mem_scanCoords.1 hq).1
  obtain ⟨hx, hy⟩ := (cellAddress_inj (by omega) (by omega)).1 e
  exact Prod.ext hx hy

end Sys2Proof.Machine
end

