-- ==== Sys2Proof/Laws/State.lean ====
section
/-!
SUPPORT. What each named update of the state does to each field, so that no proof unfolds a record update.
-/

namespace Sys2Proof.Machine

variable (s : State)

/-! ### `goTo` -/

@[simp] theorem State.goTo_phase (i : Instr) : (s.goTo i).phase = encode i := rfl
@[simp] theorem State.goTo_err (i : Instr) : (s.goTo i).err = s.err := rfl
@[simp] theorem State.goTo_width (i : Instr) : (s.goTo i).width = s.width := rfl
@[simp] theorem State.goTo_height (i : Instr) : (s.goTo i).height = s.height := rfl
@[simp] theorem State.goTo_lwidth (i : Instr) : (s.goTo i).lwidth = s.lwidth := rfl
@[simp] theorem State.goTo_lheight (i : Instr) : (s.goTo i).lheight = s.lheight := rfl
@[simp] theorem State.goTo_tx (i : Instr) : (s.goTo i).tx = s.tx := rfl
@[simp] theorem State.goTo_ty (i : Instr) : (s.goTo i).ty = s.ty := rfl
@[simp] theorem State.goTo_offx (i : Instr) : (s.goTo i).offx = s.offx := rfl
@[simp] theorem State.goTo_offy (i : Instr) : (s.goTo i).offy = s.offy := rfl
@[simp] theorem State.goTo_vw (i : Instr) : (s.goTo i).vw = s.vw := rfl
@[simp] theorem State.goTo_vh (i : Instr) : (s.goTo i).vh = s.vh := rfl
@[simp] theorem State.goTo_tile (i : Instr) : (s.goTo i).tile = s.tile := rfl
@[simp] theorem State.goTo_frame (i : Instr) : (s.goTo i).frame = s.frame := rfl
@[simp] theorem State.goTo_input (i : Instr) : (s.goTo i).input = s.input := rfl
@[simp] theorem State.goTo_params (i : Instr) : (s.goTo i).params = s.params := rfl
@[simp] theorem State.goTo_turns (i : Instr) : (s.goTo i).turns = s.turns := rfl
@[simp] theorem State.goTo_replies (i : Instr) : (s.goTo i).replies = s.replies := rfl
@[simp] theorem State.goTo_tileWritten (i : Instr) : (s.goTo i).tileWritten = s.tileWritten := rfl
@[simp] theorem State.goTo_draws (i : Instr) : (s.goTo i).draws = s.draws := rfl

/-! ### `setTile` -/

@[simp] theorem State.setTile_phase (t : Tile) : (s.setTile t).phase = s.phase := rfl
@[simp] theorem State.setTile_err (t : Tile) : (s.setTile t).err = s.err := rfl
@[simp] theorem State.setTile_width (t : Tile) : (s.setTile t).width = s.width := rfl
@[simp] theorem State.setTile_height (t : Tile) : (s.setTile t).height = s.height := rfl
@[simp] theorem State.setTile_lwidth (t : Tile) : (s.setTile t).lwidth = s.lwidth := rfl
@[simp] theorem State.setTile_lheight (t : Tile) : (s.setTile t).lheight = s.lheight := rfl
@[simp] theorem State.setTile_tx (t : Tile) : (s.setTile t).tx = s.tx := rfl
@[simp] theorem State.setTile_ty (t : Tile) : (s.setTile t).ty = s.ty := rfl
@[simp] theorem State.setTile_offx (t : Tile) : (s.setTile t).offx = s.offx := rfl
@[simp] theorem State.setTile_offy (t : Tile) : (s.setTile t).offy = s.offy := rfl
@[simp] theorem State.setTile_vw (t : Tile) : (s.setTile t).vw = s.vw := rfl
@[simp] theorem State.setTile_vh (t : Tile) : (s.setTile t).vh = s.vh := rfl
@[simp] theorem State.setTile_tile (t : Tile) : (s.setTile t).tile = t := rfl
@[simp] theorem State.setTile_frame (t : Tile) : (s.setTile t).frame = s.frame := rfl
@[simp] theorem State.setTile_input (t : Tile) : (s.setTile t).input = s.input := rfl
@[simp] theorem State.setTile_params (t : Tile) : (s.setTile t).params = s.params := rfl
@[simp] theorem State.setTile_turns (t : Tile) : (s.setTile t).turns = s.turns := rfl
@[simp] theorem State.setTile_replies (t : Tile) : (s.setTile t).replies = s.replies := rfl
@[simp] theorem State.setTile_tileWritten (t : Tile) : (s.setTile t).tileWritten = s.tileWritten := rfl
@[simp] theorem State.setTile_draws (t : Tile) : (s.setTile t).draws = s.draws := rfl

/-! ### `loadTile` -/

@[simp] theorem State.loadTile_phase (t : Tile) : (s.loadTile t).phase = s.phase := rfl
@[simp] theorem State.loadTile_err (t : Tile) : (s.loadTile t).err = s.err := rfl
@[simp] theorem State.loadTile_width (t : Tile) : (s.loadTile t).width = s.width := rfl
@[simp] theorem State.loadTile_height (t : Tile) : (s.loadTile t).height = s.height := rfl
@[simp] theorem State.loadTile_lwidth (t : Tile) : (s.loadTile t).lwidth = s.lwidth := rfl
@[simp] theorem State.loadTile_lheight (t : Tile) : (s.loadTile t).lheight = s.lheight := rfl
@[simp] theorem State.loadTile_tx (t : Tile) : (s.loadTile t).tx = s.tx := rfl
@[simp] theorem State.loadTile_ty (t : Tile) : (s.loadTile t).ty = s.ty := rfl
@[simp] theorem State.loadTile_offx (t : Tile) : (s.loadTile t).offx = s.offx := rfl
@[simp] theorem State.loadTile_offy (t : Tile) : (s.loadTile t).offy = s.offy := rfl
@[simp] theorem State.loadTile_vw (t : Tile) : (s.loadTile t).vw = s.vw := rfl
@[simp] theorem State.loadTile_vh (t : Tile) : (s.loadTile t).vh = s.vh := rfl
@[simp] theorem State.loadTile_tile (t : Tile) : (s.loadTile t).tile = t := rfl
@[simp] theorem State.loadTile_frame (t : Tile) : (s.loadTile t).frame = s.frame := rfl
@[simp] theorem State.loadTile_input (t : Tile) : (s.loadTile t).input = s.input := rfl
@[simp] theorem State.loadTile_params (t : Tile) : (s.loadTile t).params = s.params := rfl
@[simp] theorem State.loadTile_turns (t : Tile) : (s.loadTile t).turns = s.turns := rfl
@[simp] theorem State.loadTile_replies (t : Tile) : (s.loadTile t).replies = s.replies := rfl
@[simp] theorem State.loadTile_tileWritten (t : Tile) : (s.loadTile t).tileWritten = true := rfl
@[simp] theorem State.loadTile_draws (t : Tile) : (s.loadTile t).draws = s.draws := rfl

/-! ### `setFrame` -/

@[simp] theorem State.setFrame_phase (m : Memory) : (s.setFrame m).phase = s.phase := rfl
@[simp] theorem State.setFrame_err (m : Memory) : (s.setFrame m).err = s.err := rfl
@[simp] theorem State.setFrame_width (m : Memory) : (s.setFrame m).width = s.width := rfl
@[simp] theorem State.setFrame_height (m : Memory) : (s.setFrame m).height = s.height := rfl
@[simp] theorem State.setFrame_lwidth (m : Memory) : (s.setFrame m).lwidth = s.lwidth := rfl
@[simp] theorem State.setFrame_lheight (m : Memory) : (s.setFrame m).lheight = s.lheight := rfl
@[simp] theorem State.setFrame_tx (m : Memory) : (s.setFrame m).tx = s.tx := rfl
@[simp] theorem State.setFrame_ty (m : Memory) : (s.setFrame m).ty = s.ty := rfl
@[simp] theorem State.setFrame_offx (m : Memory) : (s.setFrame m).offx = s.offx := rfl
@[simp] theorem State.setFrame_offy (m : Memory) : (s.setFrame m).offy = s.offy := rfl
@[simp] theorem State.setFrame_vw (m : Memory) : (s.setFrame m).vw = s.vw := rfl
@[simp] theorem State.setFrame_vh (m : Memory) : (s.setFrame m).vh = s.vh := rfl
@[simp] theorem State.setFrame_tile (m : Memory) : (s.setFrame m).tile = s.tile := rfl
@[simp] theorem State.setFrame_frame (m : Memory) : (s.setFrame m).frame = m := rfl
@[simp] theorem State.setFrame_input (m : Memory) : (s.setFrame m).input = s.input := rfl
@[simp] theorem State.setFrame_params (m : Memory) : (s.setFrame m).params = s.params := rfl
@[simp] theorem State.setFrame_turns (m : Memory) : (s.setFrame m).turns = s.turns := rfl
@[simp] theorem State.setFrame_replies (m : Memory) : (s.setFrame m).replies = s.replies := rfl
@[simp] theorem State.setFrame_tileWritten (m : Memory) : (s.setFrame m).tileWritten = s.tileWritten := rfl
@[simp] theorem State.setFrame_draws (m : Memory) : (s.setFrame m).draws = s.draws := rfl

/-! ### `setInput` -/

@[simp] theorem State.setInput_phase (q : List Colour) : (s.setInput q).phase = s.phase := rfl
@[simp] theorem State.setInput_err (q : List Colour) : (s.setInput q).err = s.err := rfl
@[simp] theorem State.setInput_width (q : List Colour) : (s.setInput q).width = s.width := rfl
@[simp] theorem State.setInput_height (q : List Colour) : (s.setInput q).height = s.height := rfl
@[simp] theorem State.setInput_lwidth (q : List Colour) : (s.setInput q).lwidth = s.lwidth := rfl
@[simp] theorem State.setInput_lheight (q : List Colour) : (s.setInput q).lheight = s.lheight := rfl
@[simp] theorem State.setInput_tx (q : List Colour) : (s.setInput q).tx = s.tx := rfl
@[simp] theorem State.setInput_ty (q : List Colour) : (s.setInput q).ty = s.ty := rfl
@[simp] theorem State.setInput_offx (q : List Colour) : (s.setInput q).offx = s.offx := rfl
@[simp] theorem State.setInput_offy (q : List Colour) : (s.setInput q).offy = s.offy := rfl
@[simp] theorem State.setInput_vw (q : List Colour) : (s.setInput q).vw = s.vw := rfl
@[simp] theorem State.setInput_vh (q : List Colour) : (s.setInput q).vh = s.vh := rfl
@[simp] theorem State.setInput_tile (q : List Colour) : (s.setInput q).tile = s.tile := rfl
@[simp] theorem State.setInput_frame (q : List Colour) : (s.setInput q).frame = s.frame := rfl
@[simp] theorem State.setInput_input (q : List Colour) : (s.setInput q).input = q := rfl
@[simp] theorem State.setInput_params (q : List Colour) : (s.setInput q).params = s.params := rfl
@[simp] theorem State.setInput_turns (q : List Colour) : (s.setInput q).turns = s.turns := rfl
@[simp] theorem State.setInput_replies (q : List Colour) : (s.setInput q).replies = s.replies := rfl
@[simp] theorem State.setInput_tileWritten (q : List Colour) : (s.setInput q).tileWritten = s.tileWritten := rfl
@[simp] theorem State.setInput_draws (q : List Colour) : (s.setInput q).draws = s.draws := rfl

/-! ### `setPosition` -/

@[simp] theorem State.setPosition_phase (x y : TileCount) : (s.setPosition x y).phase = s.phase := rfl
@[simp] theorem State.setPosition_err (x y : TileCount) : (s.setPosition x y).err = s.err := rfl
@[simp] theorem State.setPosition_width (x y : TileCount) : (s.setPosition x y).width = s.width := rfl
@[simp] theorem State.setPosition_height (x y : TileCount) : (s.setPosition x y).height = s.height := rfl
@[simp] theorem State.setPosition_lwidth (x y : TileCount) : (s.setPosition x y).lwidth = s.lwidth := rfl
@[simp] theorem State.setPosition_lheight (x y : TileCount) : (s.setPosition x y).lheight = s.lheight := rfl
@[simp] theorem State.setPosition_tx (x y : TileCount) : (s.setPosition x y).tx = x := rfl
@[simp] theorem State.setPosition_ty (x y : TileCount) : (s.setPosition x y).ty = y := rfl
@[simp] theorem State.setPosition_offx (x y : TileCount) : (s.setPosition x y).offx = s.offx := rfl
@[simp] theorem State.setPosition_offy (x y : TileCount) : (s.setPosition x y).offy = s.offy := rfl
@[simp] theorem State.setPosition_vw (x y : TileCount) : (s.setPosition x y).vw = s.vw := rfl
@[simp] theorem State.setPosition_vh (x y : TileCount) : (s.setPosition x y).vh = s.vh := rfl
@[simp] theorem State.setPosition_tile (x y : TileCount) : (s.setPosition x y).tile = s.tile := rfl
@[simp] theorem State.setPosition_frame (x y : TileCount) : (s.setPosition x y).frame = s.frame := rfl
@[simp] theorem State.setPosition_input (x y : TileCount) : (s.setPosition x y).input = s.input := rfl
@[simp] theorem State.setPosition_params (x y : TileCount) : (s.setPosition x y).params = s.params := rfl
@[simp] theorem State.setPosition_turns (x y : TileCount) : (s.setPosition x y).turns = s.turns := rfl
@[simp] theorem State.setPosition_replies (x y : TileCount) : (s.setPosition x y).replies = s.replies := rfl
@[simp] theorem State.setPosition_tileWritten (x y : TileCount) : (s.setPosition x y).tileWritten = s.tileWritten := rfl
@[simp] theorem State.setPosition_draws (x y : TileCount) : (s.setPosition x y).draws = s.draws := rfl

/-! ### `setOffset` -/

@[simp] theorem State.setOffset_phase (x y : Half) : (s.setOffset x y).phase = s.phase := rfl
@[simp] theorem State.setOffset_err (x y : Half) : (s.setOffset x y).err = s.err := rfl
@[simp] theorem State.setOffset_width (x y : Half) : (s.setOffset x y).width = s.width := rfl
@[simp] theorem State.setOffset_height (x y : Half) : (s.setOffset x y).height = s.height := rfl
@[simp] theorem State.setOffset_lwidth (x y : Half) : (s.setOffset x y).lwidth = s.lwidth := rfl
@[simp] theorem State.setOffset_lheight (x y : Half) : (s.setOffset x y).lheight = s.lheight := rfl
@[simp] theorem State.setOffset_tx (x y : Half) : (s.setOffset x y).tx = s.tx := rfl
@[simp] theorem State.setOffset_ty (x y : Half) : (s.setOffset x y).ty = s.ty := rfl
@[simp] theorem State.setOffset_offx (x y : Half) : (s.setOffset x y).offx = x := rfl
@[simp] theorem State.setOffset_offy (x y : Half) : (s.setOffset x y).offy = y := rfl
@[simp] theorem State.setOffset_vw (x y : Half) : (s.setOffset x y).vw = s.vw := rfl
@[simp] theorem State.setOffset_vh (x y : Half) : (s.setOffset x y).vh = s.vh := rfl
@[simp] theorem State.setOffset_tile (x y : Half) : (s.setOffset x y).tile = s.tile := rfl
@[simp] theorem State.setOffset_frame (x y : Half) : (s.setOffset x y).frame = s.frame := rfl
@[simp] theorem State.setOffset_input (x y : Half) : (s.setOffset x y).input = s.input := rfl
@[simp] theorem State.setOffset_params (x y : Half) : (s.setOffset x y).params = s.params := rfl
@[simp] theorem State.setOffset_turns (x y : Half) : (s.setOffset x y).turns = s.turns := rfl
@[simp] theorem State.setOffset_replies (x y : Half) : (s.setOffset x y).replies = s.replies := rfl
@[simp] theorem State.setOffset_tileWritten (x y : Half) : (s.setOffset x y).tileWritten = s.tileWritten := rfl
@[simp] theorem State.setOffset_draws (x y : Half) : (s.setOffset x y).draws = s.draws := rfl

/-! ### `setView` -/

@[simp] theorem State.setView_phase (w h : Half) : (s.setView w h).phase = s.phase := rfl
@[simp] theorem State.setView_err (w h : Half) : (s.setView w h).err = s.err := rfl
@[simp] theorem State.setView_width (w h : Half) : (s.setView w h).width = s.width := rfl
@[simp] theorem State.setView_height (w h : Half) : (s.setView w h).height = s.height := rfl
@[simp] theorem State.setView_lwidth (w h : Half) : (s.setView w h).lwidth = s.lwidth := rfl
@[simp] theorem State.setView_lheight (w h : Half) : (s.setView w h).lheight = s.lheight := rfl
@[simp] theorem State.setView_tx (w h : Half) : (s.setView w h).tx = s.tx := rfl
@[simp] theorem State.setView_ty (w h : Half) : (s.setView w h).ty = s.ty := rfl
@[simp] theorem State.setView_offx (w h : Half) : (s.setView w h).offx = s.offx := rfl
@[simp] theorem State.setView_offy (w h : Half) : (s.setView w h).offy = s.offy := rfl
@[simp] theorem State.setView_vw (w h : Half) : (s.setView w h).vw = w := rfl
@[simp] theorem State.setView_vh (w h : Half) : (s.setView w h).vh = h := rfl
@[simp] theorem State.setView_tile (w h : Half) : (s.setView w h).tile = s.tile := rfl
@[simp] theorem State.setView_frame (w h : Half) : (s.setView w h).frame = s.frame := rfl
@[simp] theorem State.setView_input (w h : Half) : (s.setView w h).input = s.input := rfl
@[simp] theorem State.setView_params (w h : Half) : (s.setView w h).params = s.params := rfl
@[simp] theorem State.setView_turns (w h : Half) : (s.setView w h).turns = s.turns := rfl
@[simp] theorem State.setView_replies (w h : Half) : (s.setView w h).replies = s.replies := rfl
@[simp] theorem State.setView_tileWritten (w h : Half) : (s.setView w h).tileWritten = s.tileWritten := rfl
@[simp] theorem State.setView_draws (w h : Half) : (s.setView w h).draws = s.draws := rfl

/-! ### `reply` -/

@[simp] theorem State.reply_phase (r : Reply) : (s.reply r).phase = s.phase := rfl
@[simp] theorem State.reply_err (r : Reply) : (s.reply r).err = s.err := rfl
@[simp] theorem State.reply_width (r : Reply) : (s.reply r).width = s.width := rfl
@[simp] theorem State.reply_height (r : Reply) : (s.reply r).height = s.height := rfl
@[simp] theorem State.reply_lwidth (r : Reply) : (s.reply r).lwidth = s.lwidth := rfl
@[simp] theorem State.reply_lheight (r : Reply) : (s.reply r).lheight = s.lheight := rfl
@[simp] theorem State.reply_tx (r : Reply) : (s.reply r).tx = s.tx := rfl
@[simp] theorem State.reply_ty (r : Reply) : (s.reply r).ty = s.ty := rfl
@[simp] theorem State.reply_offx (r : Reply) : (s.reply r).offx = s.offx := rfl
@[simp] theorem State.reply_offy (r : Reply) : (s.reply r).offy = s.offy := rfl
@[simp] theorem State.reply_vw (r : Reply) : (s.reply r).vw = s.vw := rfl
@[simp] theorem State.reply_vh (r : Reply) : (s.reply r).vh = s.vh := rfl
@[simp] theorem State.reply_tile (r : Reply) : (s.reply r).tile = s.tile := rfl
@[simp] theorem State.reply_frame (r : Reply) : (s.reply r).frame = s.frame := rfl
@[simp] theorem State.reply_input (r : Reply) : (s.reply r).input = s.input := rfl
@[simp] theorem State.reply_params (r : Reply) : (s.reply r).params = s.params := rfl
@[simp] theorem State.reply_turns (r : Reply) : (s.reply r).turns = s.turns := rfl
@[simp] theorem State.reply_replies (r : Reply) : (s.reply r).replies = s.replies ++ [r] := rfl
@[simp] theorem State.reply_tileWritten (r : Reply) : (s.reply r).tileWritten = s.tileWritten := rfl
@[simp] theorem State.reply_draws (r : Reply) : (s.reply r).draws = s.draws := rfl

/-! ### `setTurns` -/

@[simp] theorem State.setTurns_phase (ts : List Turn) : (s.setTurns ts).phase = s.phase := rfl
@[simp] theorem State.setTurns_err (ts : List Turn) : (s.setTurns ts).err = s.err := rfl
@[simp] theorem State.setTurns_width (ts : List Turn) : (s.setTurns ts).width = s.width := rfl
@[simp] theorem State.setTurns_height (ts : List Turn) : (s.setTurns ts).height = s.height := rfl
@[simp] theorem State.setTurns_lwidth (ts : List Turn) : (s.setTurns ts).lwidth = s.lwidth := rfl
@[simp] theorem State.setTurns_lheight (ts : List Turn) : (s.setTurns ts).lheight = s.lheight := rfl
@[simp] theorem State.setTurns_tx (ts : List Turn) : (s.setTurns ts).tx = s.tx := rfl
@[simp] theorem State.setTurns_ty (ts : List Turn) : (s.setTurns ts).ty = s.ty := rfl
@[simp] theorem State.setTurns_offx (ts : List Turn) : (s.setTurns ts).offx = s.offx := rfl
@[simp] theorem State.setTurns_offy (ts : List Turn) : (s.setTurns ts).offy = s.offy := rfl
@[simp] theorem State.setTurns_vw (ts : List Turn) : (s.setTurns ts).vw = s.vw := rfl
@[simp] theorem State.setTurns_vh (ts : List Turn) : (s.setTurns ts).vh = s.vh := rfl
@[simp] theorem State.setTurns_tile (ts : List Turn) : (s.setTurns ts).tile = s.tile := rfl
@[simp] theorem State.setTurns_frame (ts : List Turn) : (s.setTurns ts).frame = s.frame := rfl
@[simp] theorem State.setTurns_input (ts : List Turn) : (s.setTurns ts).input = s.input := rfl
@[simp] theorem State.setTurns_params (ts : List Turn) : (s.setTurns ts).params = s.params := rfl
@[simp] theorem State.setTurns_turns (ts : List Turn) : (s.setTurns ts).turns = ts := rfl
@[simp] theorem State.setTurns_replies (ts : List Turn) : (s.setTurns ts).replies = s.replies := rfl
@[simp] theorem State.setTurns_tileWritten (ts : List Turn) : (s.setTurns ts).tileWritten = s.tileWritten := rfl
@[simp] theorem State.setTurns_draws (ts : List Turn) : (s.setTurns ts).draws = s.draws := rfl

/-! ### `raiseInvalidDimensions` -/

@[simp] theorem State.raiseInvalidDimensions_phase (k : BitVec 4) : (s.raiseInvalidDimensions k).phase = encode .err := rfl
@[simp] theorem State.raiseInvalidDimensions_err (k : BitVec 4) : (s.raiseInvalidDimensions k).err = errValue k 3#4 := rfl
@[simp] theorem State.raiseInvalidDimensions_width (k : BitVec 4) : (s.raiseInvalidDimensions k).width = s.width := rfl
@[simp] theorem State.raiseInvalidDimensions_height (k : BitVec 4) : (s.raiseInvalidDimensions k).height = s.height := rfl
@[simp] theorem State.raiseInvalidDimensions_lwidth (k : BitVec 4) : (s.raiseInvalidDimensions k).lwidth = s.lwidth := rfl
@[simp] theorem State.raiseInvalidDimensions_lheight (k : BitVec 4) : (s.raiseInvalidDimensions k).lheight = s.lheight := rfl
@[simp] theorem State.raiseInvalidDimensions_tx (k : BitVec 4) : (s.raiseInvalidDimensions k).tx = s.tx := rfl
@[simp] theorem State.raiseInvalidDimensions_ty (k : BitVec 4) : (s.raiseInvalidDimensions k).ty = s.ty := rfl
@[simp] theorem State.raiseInvalidDimensions_offx (k : BitVec 4) : (s.raiseInvalidDimensions k).offx = s.offx := rfl
@[simp] theorem State.raiseInvalidDimensions_offy (k : BitVec 4) : (s.raiseInvalidDimensions k).offy = s.offy := rfl
@[simp] theorem State.raiseInvalidDimensions_vw (k : BitVec 4) : (s.raiseInvalidDimensions k).vw = s.vw := rfl
@[simp] theorem State.raiseInvalidDimensions_vh (k : BitVec 4) : (s.raiseInvalidDimensions k).vh = s.vh := rfl
@[simp] theorem State.raiseInvalidDimensions_tile (k : BitVec 4) : (s.raiseInvalidDimensions k).tile = s.tile := rfl
@[simp] theorem State.raiseInvalidDimensions_frame (k : BitVec 4) : (s.raiseInvalidDimensions k).frame = s.frame := rfl
@[simp] theorem State.raiseInvalidDimensions_input (k : BitVec 4) : (s.raiseInvalidDimensions k).input = s.input := rfl
@[simp] theorem State.raiseInvalidDimensions_params (k : BitVec 4) : (s.raiseInvalidDimensions k).params = s.params := rfl
@[simp] theorem State.raiseInvalidDimensions_turns (k : BitVec 4) : (s.raiseInvalidDimensions k).turns = s.turns := rfl
@[simp] theorem State.raiseInvalidDimensions_replies (k : BitVec 4) : (s.raiseInvalidDimensions k).replies = s.replies := rfl
@[simp] theorem State.raiseInvalidDimensions_tileWritten (k : BitVec 4) : (s.raiseInvalidDimensions k).tileWritten = s.tileWritten := rfl
@[simp] theorem State.raiseInvalidDimensions_draws (k : BitVec 4) : (s.raiseInvalidDimensions k).draws = s.draws := rfl

/-! ### `resetBlock` -/

@[simp] theorem State.resetBlock_phase : s.resetBlock.phase = 0x0#4 := rfl
@[simp] theorem State.resetBlock_err : s.resetBlock.err = 0 := rfl
@[simp] theorem State.resetBlock_width : s.resetBlock.width = 0 := rfl
@[simp] theorem State.resetBlock_height : s.resetBlock.height = 0 := rfl
@[simp] theorem State.resetBlock_lwidth : s.resetBlock.lwidth = 0 := rfl
@[simp] theorem State.resetBlock_lheight : s.resetBlock.lheight = 0 := rfl
@[simp] theorem State.resetBlock_tx : s.resetBlock.tx = 0 := rfl
@[simp] theorem State.resetBlock_ty : s.resetBlock.ty = 0 := rfl
@[simp] theorem State.resetBlock_offx : s.resetBlock.offx = 0 := rfl
@[simp] theorem State.resetBlock_offy : s.resetBlock.offy = 0 := rfl
@[simp] theorem State.resetBlock_vw : s.resetBlock.vw = 0 := rfl
@[simp] theorem State.resetBlock_vh : s.resetBlock.vh = 0 := rfl
@[simp] theorem State.resetBlock_tile : s.resetBlock.tile = Vector.ofFn fun i : Fin 64 => Config.unspecifiedColour (s.draws + 1) i.val := rfl
@[simp] theorem State.resetBlock_frame : s.resetBlock.frame = [] := rfl
@[simp] theorem State.resetBlock_input : s.resetBlock.input = [] := rfl
@[simp] theorem State.resetBlock_params : s.resetBlock.params = s.params := rfl
@[simp] theorem State.resetBlock_turns : s.resetBlock.turns = s.turns := rfl
@[simp] theorem State.resetBlock_replies : s.resetBlock.replies = s.replies := rfl
@[simp] theorem State.resetBlock_tileWritten : s.resetBlock.tileWritten = false := rfl
@[simp] theorem State.resetBlock_draws : s.resetBlock.draws = s.draws + 1 := rfl

/-! ### Frames: put back what an update wrote, and the state is the one before

Cite these rather than closing such a goal by `rfl`: with a concrete tile or frame in the place of the variable, `rfl` compares
the two states field by field and unfolds all of it. -/

theorem State.restore_tile (t : Tile) (i : Instr) :
    { (s.setTile t).goTo i with tile := s.tile, phase := s.phase } = s := rfl

theorem State.restore_load (t : Tile) (q : List Colour) (x y : Half) (i : Instr) :
    { (((s.loadTile t).setInput q).setOffset x y).goTo i with
      tile := s.tile, tileWritten := s.tileWritten, input := s.input, offx := s.offx, offy := s.offy, phase := s.phase } = s := rfl

theorem State.restore_frame (m : Memory) (i : Instr) :
    { (s.setFrame m).goTo i with frame := s.frame, phase := s.phase } = s := rfl

theorem State.restore_frame_position (m : Memory) (x y : TileCount) (i : Instr) :
    { ((s.setFrame m).setPosition x y).goTo i with frame := s.frame, tx := s.tx, ty := s.ty, phase := s.phase } = s := rfl

theorem State.restore_frame_same_position (m : Memory) (i : Instr) :
    { (s.setFrame m).goTo i with frame := s.frame, tx := s.tx, ty := s.ty, phase := s.phase } = s := rfl

/-! ### The state after reset -/

@[simp] theorem State.reset_phase : State.reset.phase = encode .idl := rfl
@[simp] theorem State.reset_err : State.reset.err = 0 := rfl
@[simp] theorem State.reset_width : State.reset.width = 0 := rfl
@[simp] theorem State.reset_height : State.reset.height = 0 := rfl
@[simp] theorem State.reset_lwidth : State.reset.lwidth = 0 := rfl
@[simp] theorem State.reset_lheight : State.reset.lheight = 0 := rfl
@[simp] theorem State.reset_tx : State.reset.tx = 0 := rfl
@[simp] theorem State.reset_ty : State.reset.ty = 0 := rfl
@[simp] theorem State.reset_offx : State.reset.offx = 0 := rfl
@[simp] theorem State.reset_offy : State.reset.offy = 0 := rfl
@[simp] theorem State.reset_vw : State.reset.vw = 0 := rfl
@[simp] theorem State.reset_vh : State.reset.vh = 0 := rfl
@[simp] theorem State.reset_frame : State.reset.frame = [] := rfl
@[simp] theorem State.reset_input : State.reset.input = [] := rfl
@[simp] theorem State.reset_params : State.reset.params = Config.standard := rfl
@[simp] theorem State.reset_turns : State.reset.turns = [] := rfl
@[simp] theorem State.reset_replies : State.reset.replies = [] := rfl
@[simp] theorem State.reset_tileWritten : State.reset.tileWritten = false := rfl
@[simp] theorem State.reset_draws : State.reset.draws = 0 := rfl

end Sys2Proof.Machine
end

