-- ==== Sys2Proof/Machine/Frontend.lean ====
section
/-!
DEFINITION. The host-side front end, outside the block: the footer parse FTR, the pixel stream decode PSD, and how the host
drives the block with their results (40_frontend.md). The functions have no operation code.
-/

namespace Sys2Proof.Machine

/-- The source's three error kinds (R160). FTR and PSD raise only `malformedInput` (R163), the block only
`invalidDimensions` (R161), file access `ioError` (R164, out of scope). -/
inductive ErrorKind where
  | ioError
  | malformedInput
  | invalidDimensions
deriving DecidableEq, Repr

/-- `ERR.CODE` of an error kind (R27, R160). -/
def ErrorKind.code : ErrorKind → BitVec 4
  | .ioError => 1#4
  | .malformedInput => 2#4
  | .invalidDimensions => 3#4

/-- The four numbers a footer holds (R90). -/
structure Footer where
  width         : Half
  height        : Half
  logicalWidth  : Half
  logicalHeight : Half
deriving DecidableEq, Repr

/-- FTR: the last 12 bytes of the buffer, of which the first four are not read (R90, R91). -/
def parseFooter (buffer : List Byte) : Except ErrorKind Footer :=
  match buffer.drop (buffer.length - 12) with
  | [_, _, _, _, w0, w1, h0, h1, lw0, lw1, lh0, lh1] =>
    .ok { width := le16 w0 w1, height := le16 h0 h1, logicalWidth := le16 lw0 lw1, logicalHeight := le16 lh0 lh1 }
  | _ => .error .malformedInput

/-- The walk of PSD over the reversed body: each step takes red, green, blue in that order (R92). -/
def decodeTriples : List Byte → List Colour
  | r :: g :: b :: rest => pack r g b :: decodeTriples rest
  | _ => []

/-- PSD: the body read backwards in steps of three bytes; a body that is empty or no multiple of 3 long is malformed (R92,
R93). -/
def decodePixels (data : List Byte) : Except ErrorKind (List Colour) :=
  if data.length < 3 ∨ data.length % 3 ≠ 0 then .error .malformedInput
  else .ok (decodeTriples data.reverse)

/-- The buffer without its last 12 bytes (R74). -/
def fileBody (buffer : List Byte) : List Byte := buffer.take (buffer.length - 12)

/-- What the host does to the block for one file, steps 3 to 5 of R95: reset, the four dimension writes, the pushes, START. -/
def hostScript (f : Footer) (colours : List Colour) : List HostAction :=
  .reset ::
  .wr Reg.width.index f.width :: .wr Reg.height.index f.height ::
  .wr Reg.lwidth.index f.logicalWidth :: .wr Reg.lheight.index f.logicalHeight ::
  (colours.map .push ++ [.wr Reg.ctrl.index 1])

/-- Steps 1 to 5 of R95 for a file: FTR first, then PSD, then the host's actions; the first error stops (R95, R169). -/
def fileScript (buffer : List Byte) : Except ErrorKind (List HostAction) :=
  match parseFooter buffer with
  | .error e => .error e
  | .ok f =>
    match decodePixels (fileBody buffer) with
    | .error e => .error e
    | .ok colours => .ok (hostScript f colours)

/-- A block with the host's actions to come, one after another, and nothing in between (log 8, log 12). -/
def State.withScript (actions : List HostAction) (s : State) : State :=
  s.setTurns (actions.map .host)

end Sys2Proof.Machine
end

