-- ==== Sys2Proof/Machine/Reference.lean ====
section
/-!
DEFINITION. What the spec derives from its own rules and calls evidence: the Morton index, the inverses of the stages, the
linear address, the mirror by exchanges, the full raster in closed form. No meaning uses any of it; statements compare the
meanings with it.
-/

namespace Sys2Proof.Machine

/-- The Morton index `M(c, r) = {r[2], c[2], r[1], c[1], r[0], c[0]}` (R112). -/
def morton (c r : Nat) : Nat :=
  c % 2 + 2 * (r % 2) + 4 * (c / 2 % 2) + 8 * (r / 2 % 2) + 16 * (c / 4 % 2) + 32 * (r / 4 % 2)

/-- The inverse of ROT: `UL' = DL, UR' = UL, DR' = UR, DL' = DR` (R104). -/
def rotInverseSource (c r : Fin 8) : Fin 8 × Fin 8 :=
  match c.val % 2, r.val % 2 with
  | 0, 0 => (c, r + 1)
  | _, 0 => (c - 1, r)
  | 0, _ => (c + 1, r)
  | _, _ => (c, r - 1)

/-- The inverse of RGS: rows take rows 2, 0, 3, 1 and 6, 4, 7, 5 (R110). -/
def rgsInverseSource (c r : Fin 8) : Fin 8 × Fin 8 :=
  match r.val with
  | 0 => (c, 2)
  | 1 => (c, 0)
  | 2 => (c, 3)
  | 3 => (c, 1)
  | 4 => (c, 6)
  | 5 => (c, 4)
  | 6 => (c, 7)
  | _ => (c, 5)

/-- The linear address `a = y * WIDTH + x` (R56). -/
def linearAddress (width x y : Nat) : Nat := y * width + x

/-- Two cells exchanged; nothing happens where one of them has no value. -/
def Memory.exchange (m : Memory) (a b : Nat) : Memory :=
  match m.read a, m.read b with
  | some u, some v => (m.write a v).write b u
  | _, _ => m

/-- The mirror in place: column `x` exchanged with column `WIDTH - 1 - x`, for `x` from 0 to `WIDTH/2 - 1` only, in every row
(R125). -/
def mirrorByExchange (w h : Nat) (m : Memory) : Memory :=
  (scanCoords (w / 2) h).foldl (fun m p => m.exchange (cellAddress p.1 p.2) (cellAddress (w - 1 - p.1) p.2)) m

/-- The number `k` such that `FULL[x][y]` is `S[k]` in a frame `w` pixels wide (R133). -/
def sourceIndex (w x y : Nat) : Nat :=
  64 * ((y / 8) * (w / 8) + (w - 1 - x) / 8) + morton ((w - 1 - x) % 8) (y % 8)

/-- The number of the tile at the current grid position, `t = TY * GW + TX` (R12, R122). -/
def State.tileNumber (s : State) : Nat := s.ty.toNat * s.tilesAcross + s.tx.toNat

end Sys2Proof.Machine
end

