-- ==== Sys2Proof/Safety.lean ====
section
/-!
DEFINITION. What claims about the machine are stated in: legal dimensions, held and final states, safe steps, the invariant of
the block, and when two states differ in colours only.
-/

namespace Sys2Proof.Machine

/-! ### Legal dimensions (R28 to R31, R143) -/

/-- The dimensions for which CHK raises nothing: width and height positive multiples of 8, logical dimensions not above them,
the frame not above the capacity. -/
abbrev State.DimensionsLegal (s : State) : Prop :=
  0 < s.width.toNat ∧ s.width.toNat % 8 = 0 ∧ 0 < s.height.toNat ∧ s.height.toNat % 8 = 0 ∧
  s.lwidth.toNat ≤ s.width.toNat ∧ s.lheight.toNat ≤ s.height.toNat ∧
  s.width.toNat * s.height.toNat ≤ s.params.fbMaxPixels

/-! ### Held, final and faulted states (R175, R208) -/

/-- A hold: the engine's operation is not enabled, and the host can enable it (R175). -/
def State.held (s : State) : Bool :=
  s.inPhase .idl || (s.inPhase .ldt && s.input.length < 64)

/-- The end of a successful run (R208). -/
def State.endedWell (s : State) : Bool := s.done

/-- The end of a run in a fault (R208); never a successful final state. -/
def State.endedInFault (s : State) : Bool := s.faulted

/-- The engine's turn: the turn list says so, or is empty (R11). -/
def State.engineTurn (s : State) : Bool := s.takeTurn.1 == .engine

/-- The host resets the block in its turn: the reset input, or a write of `CTRL` with RST set (R190, R142). -/
def HostAction.resets : HostAction → Bool
  | .reset => true
  | .wr index value => Reg.ofIndex index == .ctrl && value.getLsbD 1
  | .rd _ => false
  | .push _ => false
  | .fbrd _ _ => false
  | .lvrd _ _ => false

/-- The host's action asks for a pixel (R129, R130). -/
def HostAction.readsOut : HostAction → Bool
  | .fbrd _ _ => true
  | .lvrd _ _ => true
  | .wr _ _ => false
  | .rd _ => false
  | .push _ => false
  | .reset => false

/-- The host starts a run in its turn: a write of `CTRL` with START set and RST clear (R141). -/
def HostAction.starts : HostAction → Bool
  | .wr index value => Reg.ofIndex index == .ctrl && value.getLsbD 0 && !value.getLsbD 1
  | .reset => false
  | .rd _ => false
  | .push _ => false
  | .fbrd _ _ => false
  | .lvrd _ _ => false

/-- Every cell of the frame holds a colour that has been written (R66). -/
def State.FrameWritten (s : State) : Prop :=
  ∀ x y, x < s.width.toNat → y < s.height.toNat → (s.frame.read (cellAddress x y)).isSome = true

/-- The operation has `T` among the operands it reads (R79). -/
def readsTile : Instr → Bool
  | .rot => true
  | .qsw => true
  | .mcs => true
  | .rgs => true
  | .plt => true
  | .idl => false
  | .chk => false
  | .ldt => false
  | .mir => false
  | .crp => false
  | .hlt => false
  | .err => false

/-- The engine's next operation reads a tile buffer that no LDT has written since the last reset. R176 item c gives the content
it reads no meaning, and R22 says that no operation does this in a run; the model goes on with the free values of log 3. -/
def State.readsUnwrittenTile (s : State) : Bool :=
  !s.tileWritten &&
    match decode s.phase with
    | .ok i => readsTile i
    | .error _ => false

/-- A step that answers a next state: no fault, no refusal. -/
def SafeStep (s : State) : Prop := ∃ t, step s = .next t

/-- `n` steps in a row that all answer a next state. -/
def SafeRun (n : Nat) (s : State) : Prop := ∃ t, core.run n s = .next t

/-! ### The invariant of the block -/

/-- The block works on a frame, or has finished one: `PHASE` is LDT to CRP, or HLT (codes 0x2 to 0xA). -/
abbrev State.inFrame (s : State) : Prop := 2 ≤ s.phase.toNat ∧ s.phase.toNat ≤ 10

/-- The cell `(x, y)` of the frame has been placed: in LDT to PLT when it belongs to a tile before the current one in grid
order, from MIR on always (R66, R122). -/
def State.Placed (s : State) (x y : Nat) : Prop :=
  8 ≤ s.phase.toNat ∨ y / 8 < s.ty.toNat ∨ (y / 8 = s.ty.toNat ∧ x / 8 < s.tx.toNat)

/-- What holds of the block after reset and after every step, whatever the host does. -/
structure State.Inv (s : State) : Prop where
  /-- `PHASE` never holds a reserved code (R81). -/
  phase_legal : operationCodeWf s.phase = true
  /-- Outside ERR the register `ERR` is 0; in ERR it holds code 3 and a cause from 1 to 5 (R27, R170, R173). -/
  err_cause : if s.phase = encode .err then errCode s.err = 3#4 ∧ 1 ≤ (errCause s.err).toNat ∧ (errCause s.err).toNat ≤ 5
    else s.err = 0
  /-- The frame buffer keeps its canonical form. -/
  frame_wf : s.frame.wf
  /-- No cell outside the frame is ever written (R36). -/
  frame_inside : ∀ p ∈ s.frame, ∃ x y, x < s.width.toNat ∧ y < s.height.toNat ∧ p.1 = cellAddress x y
  /-- Before the first tile, and after a fault, no cell is written, no tile has been loaded and nothing has moved from its reset
  value (R171). -/
  before_frame : ¬ s.inFrame →
    s.frame = [] ∧ s.tileWritten = false ∧ s.tx = 0 ∧ s.ty = 0 ∧ s.offx = 0 ∧ s.offy = 0
  /-- No operation reads a tile register that LDT has not written (R22, R176 item c). -/
  tile_written : s.inFrame → s.phase ≠ encode .ldt → s.tileWritten = true
  /-- Once CHK has passed, the dimensions are legal (R143, R161). -/
  dims_legal : s.inFrame → s.DimensionsLegal
  /-- The tile position stays in the grid (R34). -/
  position : s.inFrame → s.tx.toNat < s.tilesAcross ∧ s.ty.toNat < s.tilesDown
  /-- The offset belongs to the tile in the tile buffer (R35, R101). -/
  offset : s.inFrame → s.phase ≠ encode .ldt →
    s.offx.toNat = 8 * s.tx.toNat ∧ s.offy.toNat = 8 * s.ty.toNat
  /-- Offsets are multiples of 8 and at most 65520 (R35). -/
  offset_aligned : s.offx.toNat % 8 = 0 ∧ s.offx.toNat ≤ 65520 ∧ s.offy.toNat % 8 = 0 ∧ s.offy.toNat ≤ 65520
  /-- Exactly the cells of the tiles placed so far are written (R66). -/
  coverage : s.inFrame → ∀ x y, x < s.width.toNat → y < s.height.toNat →
    ((s.frame.read (cellAddress x y)).isSome = true ↔ s.Placed x y)
  /-- From MIR on, the position is that of the last tile (R122). -/
  last_tile : 8 ≤ s.phase.toNat → s.inFrame → s.tx.toNat + 1 = s.tilesAcross ∧ s.ty.toNat + 1 = s.tilesDown
  /-- The logical view is closed until CRP has run, and is the logical rectangle after it (R37, R127). -/
  view : if s.phase = encode .hlt then s.vw = s.lwidth ∧ s.vh = s.lheight else s.vw = 0 ∧ s.vh = 0

/-! ### States that differ in colours only (R111, R113, R65) -/

/-- The two states agree in everything but the values of colours: the content of `T`, of the listed cells of `FB` and of the
entries of `IN`. -/
def SameButColours (s t : State) : Prop :=
  { s with tile := t.tile, frame := t.frame, input := t.input } = t ∧
  s.input.length = t.input.length ∧
  s.frame.map (fun p => p.1) = t.frame.map (fun p => p.1)

/-- The two outcomes are of the same kind, for the same reason, and two next states differ in colours only. -/
def SameButColoursOutcome (a b : Host.Outcome State Fault Refusal) : Prop :=
  match a, b with
  | .next s, .next t => SameButColours s t
  | .fault e, .fault f => e = f
  | .refused e, .refused f => e = f
  | _, _ => False

/-! ### Control flow -/

/-- The successor relation of the engine, with its conditions: from operation `i`, executed in state `s`, the next `PHASE` is
the code of `j` (R147). -/
def Successor (i : Instr) (s : State) (j : Instr) : Prop :=
  match i with
  | .idl => j = .idl
  | .chk => (s.DimensionsLegal ∧ j = .ldt) ∨ (¬ s.DimensionsLegal ∧ j = .err)
  | .ldt => (s.input.length < 64 ∧ j = .ldt) ∨ (64 ≤ s.input.length ∧ j = .rot)
  | .rot => j = .qsw
  | .qsw => j = .mcs
  | .mcs => j = .rgs
  | .rgs => j = .plt
  | .plt =>
    ((s.tx.toNat + 1 < s.tilesAcross ∨ s.ty.toNat + 1 < s.tilesDown) ∧ j = .ldt) ∨
    ((s.tilesAcross ≤ s.tx.toNat + 1 ∧ s.tilesDown ≤ s.ty.toNat + 1) ∧ j = .mir)
  | .mir => j = .crp
  | .crp => j = .hlt
  | .hlt => j = .hlt
  | .err => j = .err

end Sys2Proof.Machine
end

