-- ==== Sys2Proof/Laws/Exec.lean ====
section
/-!
SUPPORT. What each meaning and each host action can answer: one inversion lemma each, so that no proof unfolds a meaning.
-/

namespace Sys2Proof.Machine

open Host (Outcome)

/-! ### CHK -/

theorem pixelCount_toNat (w h : Half) : (pixelCount w h).toNat = w.toNat * h.toNat := by
  have hw := w.isLt
  have hh := h.isLt
  have : w.toNat * h.toNat ≤ 65535 * 65535 := Nat.mul_le_mul (by omega) (by omega)
  simp only [pixelCount, BitVec.toNat_mul, BitVec.toNat_setWidth]
  rw [Nat.mod_eq_of_lt (a := w.toNat) (by omega), Nat.mod_eq_of_lt (a := h.toNat) (by omega), Nat.mod_eq_of_lt (by omega)]

theorem badDimension_eq_false {v : Half} : badDimension v = false ↔ 0 < v.toNat ∧ v.toNat % 8 = 0 := by
  simp only [badDimension, Bool.or_eq_false_iff, beq_eq_false_iff_ne, bne_eq_false_iff_eq]
  omega

theorem State.dimensionCause_eq_none {s : State} : s.dimensionCause = none ↔ s.DimensionsLegal := by
  have hw := @badDimension_eq_false s.width
  have hh := @badDimension_eq_false s.height
  have hp := pixelCount_toNat s.width s.height
  unfold State.dimensionCause State.DimensionsLegal
  split
  next h => simp only [h, Bool.true_eq_false, false_iff] at hw; simp; omega
  next h =>
    have hw' := hw.1 (by simpa using h)
    split
    next h => simp only [h, Bool.true_eq_false, false_iff] at hh; simp; omega
    next h =>
      have hh' := hh.1 (by simpa using h)
      split
      next h => have := BitVec.lt_def.1 h; simp; omega
      next h =>
        have hl := mt BitVec.lt_def.2 h
        split
        next h => have := BitVec.lt_def.1 h; simp; omega
        next h =>
          have hl' := mt BitVec.lt_def.2 h
          split
          next h => simp; omega
          next h => simp; omega

theorem State.dimensionCause_eq_some {s : State} {k : BitVec 4} (h : s.dimensionCause = some k) :
    1 ≤ k.toNat ∧ k.toNat ≤ 5 := by
  unfold State.dimensionCause at h
  repeat' split at h
  all_goals first | cases h; decide | cases h

theorem execChk_next {s t : State} (h : execChk s = .next t) :
    (s.DimensionsLegal ∧ t = ((s.setPosition 0 0).setView 0 0).goTo .ldt) ∨
    ∃ k, s.dimensionCause = some k ∧ t = s.raiseInvalidDimensions k := by
  unfold execChk at h
  split at h
  next k hk => cases h; exact .inr ⟨k, hk, rfl⟩
  next hk => cases h; exact .inl ⟨State.dimensionCause_eq_none.1 hk, rfl⟩

/-! ### LDT -/

theorem execLdt_next {s t : State} (h : execLdt s = .next t) :
    (s.input.length < 64 ∧ t = s) ∨
    (64 ≤ s.input.length ∧ ∃ loaded : Tile,
      (∀ c r : Fin 8, s.input[8 * c.val + r.val]? = some (loaded.cell c r)) ∧
      t = (((s.loadTile loaded).setInput (s.input.drop 64)).setOffset (8 * s.tx.setWidth 16) (8 * s.ty.setWidth 16)).goTo .rot) := by
  unfold execLdt at h
  split at h
  next short => cases h; exact .inl ⟨short, rfl⟩
  next long =>
    cases h
    refine .inr ⟨by omega, _, fun c r => ?_, rfl⟩
    simp only [Tile.cell, Vector.getElem_ofFn]
    exact List.getElem?_eq_getElem _

/-- The offset LDT records does not overflow 16 bits (R35, R101). -/
theorem offset_toNat (v : TileCount) : (8 * v.setWidth 16 : Half).toNat = 8 * v.toNat := by
  have := v.isLt
  rw [BitVec.toNat_mul, BitVec.toNat_setWidth, show (8 : Half).toNat = 8 from rfl]
  omega

/-! ### The four stages -/

/-- Everything a stage that answers a next state has done; it always answers one (R113). -/
theorem State.stage_next {source : Fin 8 → Fin 8 → Fin 8 × Fin 8} {following : Instr} {s t : State}
    (h : s.stage source following = .next t) : t = (s.setTile (s.tile.permute source)).goTo following := by
  cases h; rfl

/-- A stage writes `T` and `PHASE`, and nothing else. -/
theorem State.stage_restore {source : Fin 8 → Fin 8 → Fin 8 × Fin 8} {following : Instr} {s t : State}
    (h : s.stage source following = .next t) : { t with tile := s.tile, phase := s.phase } = s := by
  obtain rfl := State.stage_next h
  exact State.restore_tile ..

/-! ### PLT -/

/-- The three ways a position advances (R122). -/
theorem State.advance_cases (s : State) :
    (s.tx.toNat + 1 < s.tilesAcross ∧ s.advance = (s.setPosition (s.tx + 1) s.ty).goTo .ldt) ∨
    (s.tilesAcross ≤ s.tx.toNat + 1 ∧ s.ty.toNat + 1 < s.tilesDown ∧ s.advance = (s.setPosition 0 (s.ty + 1)).goTo .ldt) ∨
    (s.tilesAcross ≤ s.tx.toNat + 1 ∧ s.tilesDown ≤ s.ty.toNat + 1 ∧ s.advance = s.goTo .mir) := by
  unfold State.advance
  split
  next h => exact .inl ⟨h, rfl⟩
  next h =>
    split
    next h' => exact .inr (.inl ⟨by omega, h', rfl⟩)
    next h' => exact .inr (.inr ⟨by omega, by omega, rfl⟩)

/-- A count below a tile count of the frame can be advanced within 13 bits (R34, R151). -/
theorem tileCount_succ {v : TileCount} {n : Nat} (hn : n ≤ 65535 / 8) (h : v.toNat + 1 < n) : (v + 1).toNat = v.toNat + 1 := by
  rw [BitVec.toNat_add, show (1 : TileCount).toNat = 1 from rfl]
  omega

theorem execPlt_next {s t : State} (h : execPlt s = .next t) :
    s.tileInFrame = true ∧ t = (s.setFrame (s.frame.writeAll s.tileWrites)).advance := by
  unfold execPlt at h
  split at h
  next hin => cases h; exact ⟨hin, rfl⟩
  next => cases h

theorem execPlt_inside {s : State} (h : s.tileInFrame = true) :
    execPlt s = .next (s.setFrame (s.frame.writeAll s.tileWrites)).advance := if_pos h

/-- What PLT leaves in each cell of the frame buffer (R120). -/
theorem State.read_tileWrites {s : State} (h : s.tileInFrame = true) (c r : Fin 8) :
    (s.frame.writeAll s.tileWrites).read (cellAddress (s.offx.toNat + c.val) (s.offy.toNat + r.val)) = some (s.tile.cell c r) :=
  Memory.read_writeAll (State.tileWrites_nodup h) (State.mem_tileWrites.2 ⟨c, r, rfl⟩)

/-! ### MIR -/

theorem execMir_next {s t : State} (h : execMir s = .next t) :
    ∃ colours, s.frame.readAll s.mirrorCells = some colours ∧
      t = (s.setFrame (s.frame.writeAll (s.frameCells.zip colours))).goTo .crp := by
  unfold execMir at h
  split at h
  next colours hc => cases h; exact ⟨colours, hc, rfl⟩
  next => cases h

/-- Outside the frame MIR leaves every cell as it was. -/
theorem State.read_mirror_outside {s : State} {colours : List Colour} {a : Nat} (h : a ∉ s.frameCells) :
    (s.frame.writeAll (s.frameCells.zip colours)).read a = s.frame.read a := by
  refine Memory.read_writeAll_other fun p hp e => h ?_
  exact e ▸ (List.of_mem_zip hp).1

/-! ### What fetch and turns answer -/

/-- A code decodes to an operation exactly when it is that operation's code (R80). -/
theorem decode_eq_ok {code : BitVec 4} {i : Instr} : decode code = .ok i ↔ code = encode i := by
  revert code; cases i <;> decide

theorem State.fetch_eq_ok {s : State} {i : Instr} :
    s.fetch = .ok i ↔ errValueWf s.err = true ∧ decode s.phase = .ok i := by
  unfold State.fetch
  split
  next h =>
    split
    next j hj => simp [h, hj]
    next hj => simp [hj]
  next h => simp [h]

theorem State.takeTurn_cases (s : State) :
    (s.turns = [] ∧ s.takeTurn = (.engine, s)) ∨ ∃ t ts, s.turns = t :: ts ∧ s.takeTurn = (t, s.setTurns ts) := by
  unfold State.takeTurn
  split
  next h => exact .inl ⟨h, rfl⟩
  next t ts h => exact .inr ⟨t, ts, h, rfl⟩

/-- Whoever's turn it is, the state it acts on differs from the state before in the turn list only. -/
theorem State.takeTurn_state (s : State) : ∃ ts, s.takeTurn.2 = s.setTurns ts := by
  rcases s.takeTurn_cases with ⟨h, e⟩ | ⟨t, ts, h, e⟩
  · exact ⟨[], by rw [e, ← h]; rfl⟩
  · exact ⟨ts, by rw [e]⟩

/-- Everything a step that answers a next state can have been: an operation of the engine, or a host action. -/
theorem step_next {s t : State} (h : step s = .next t) :
    ∃ i, s.fetch = .ok i ∧
      ((s.takeTurn.1 = .engine ∧ exec i s.takeTurn.2 = .next t) ∨
       ∃ a, s.takeTurn.1 = .host a ∧ performHost a s.takeTurn.2 = .next t) := by
  unfold step at h
  split at h
  next => cases h
  next i hi =>
    refine ⟨i, hi, ?_⟩
    split at h
    next s' hs => exact .inl ⟨by rw [hs], by rw [hs]; exact h⟩
    next a s' hs => exact .inr ⟨a, by rw [hs], by rw [hs]; exact h⟩

/-! ### Host actions -/

theorem State.writeControl_cases (v : Half) (s : State) :
    (v.getLsbD 1 = true ∧ s.writeControl v = s.resetBlock) ∨
    (v.getLsbD 1 = false ∧ v.getLsbD 0 = true ∧ s.phase = encode .idl ∧ s.writeControl v = s.goTo .chk) ∨
    (v.getLsbD 1 = false ∧ (v.getLsbD 0 = false ∨ s.phase ≠ encode .idl) ∧ s.writeControl v = s) := by
  unfold State.writeControl State.inPhase
  cases h1 : v.getLsbD 1
  · cases h0 : v.getLsbD 0
    · exact .inr (.inr ⟨rfl, .inl rfl, rfl⟩)
    · by_cases hp : s.phase = encode .idl
      · exact .inr (.inl ⟨rfl, rfl, hp, by simp [hp]⟩)
      · exact .inr (.inr ⟨rfl, .inr hp, by simp [hp]⟩)
  · exact .inl ⟨rfl, rfl⟩

/-- A read-out answers a next state only with the pixel of a written cell of the raster, while `DONE` is 1 (R129 to R131). -/
theorem State.readOut_eq_ok {w h x y : Nat} {s : State} {p : Pixel} :
    s.readOut w h x y = .ok p ↔
      s.phase = encode .hlt ∧ x < w ∧ y < h ∧ ∃ v, s.frame.read (cellAddress x y) = some v ∧ p = channels v := by
  unfold State.readOut State.done State.inPhase
  by_cases hd : s.phase = encode .hlt
  · by_cases hin : x < w ∧ y < h
    · cases s.frame.read (cellAddress x y) <;> simp [hd, hin, eq_comm]
    · simp [hd, hin]
      intro h1 h2
      exact (hin ⟨h1, h2⟩).elim
  · simp [hd]

/-- Everything a host action that answers a next state can have done: a reply to a read; a push; a reset; START; nothing; or a
write of one dimension register in IDL (R32, R85, R141, R142, R154, R155, R190). -/
theorem performHost_next {a : HostAction} {s t : State} (h : performHost a s = .next t) :
    (a.resets = false ∧ a.starts = false ∧ ∃ r, t = s.reply r) ∨
    (∃ v, a = .push v ∧ t = s.push v) ∨
    (a.resets = true ∧ a.starts = false ∧ t = s.resetBlock) ∨
    (a.resets = false ∧ a.starts = true ∧ s.phase = encode .idl ∧ t = s.goTo .chk) ∨
    (a.resets = false ∧ (a.starts = false ∨ s.phase ≠ encode .idl) ∧ t = s) ∨
    (a.resets = false ∧ a.starts = false ∧ s.phase = encode .idl ∧ ∃ v,
      t = { s with width := v } ∨ t = { s with height := v } ∨ t = { s with lwidth := v } ∨ t = { s with lheight := v }) := by
  cases a with
  | rd index => cases h; exact .inl ⟨rfl, rfl, _, rfl⟩
  | push v => cases h; exact .inr (.inl ⟨v, rfl, rfl⟩)
  | reset => cases h; exact .inr (.inr (.inl ⟨rfl, rfl, rfl⟩))
  | fbrd x y =>
    simp only [performHost, State.deliver] at h
    split at h
    · cases h; exact .inl ⟨rfl, rfl, _, rfl⟩
    · cases h
  | lvrd x y =>
    simp only [performHost, State.deliver] at h
    split at h
    · cases h; exact .inl ⟨rfl, rfl, _, rfl⟩
    · cases h
  | wr index v =>
    cases h
    simp only [HostAction.resets, HostAction.starts]
    generalize Reg.ofIndex index = r
    cases r
    case ctrl =>
      rcases s.writeControl_cases v with ⟨h1, e⟩ | ⟨h1, h0, hp, e⟩ | ⟨h1, h0, e⟩
      · exact .inr (.inr (.inl ⟨by rw [h1]; rfl, by rw [h1, Bool.not_true, Bool.and_false], e⟩))
      · exact .inr (.inr (.inr (.inl ⟨by rw [h1]; rfl, by rw [h1, h0]; rfl, hp, e⟩)))
      · exact .inr (.inr (.inr (.inr (.inl
          ⟨by rw [h1]; rfl, h0.imp_left fun h0 => by rw [h0, Bool.and_false, Bool.false_and], e⟩))))
    all_goals
      by_cases hp : s.phase = encode .idl
      · first
          | exact .inr (.inr (.inr (.inr (.inl ⟨rfl, .inl rfl, rfl⟩))))
          | exact .inr (.inr (.inr (.inr (.inr ⟨rfl, rfl, hp, v, by simp [State.writeRegister, State.inPhase, hp]⟩))))
      · exact .inr (.inr (.inr (.inr (.inl ⟨rfl, .inl rfl, by simp [State.writeRegister, State.inPhase, hp]⟩))))

/-! ### The canonical form of the frame buffer -/

/-- Every operation of the engine keeps the canonical form. -/
theorem exec_keeps_frame_wf {i : Instr} {s t : State} (h : exec i s = .next t) (hs : s.frame.wf) : t.frame.wf := by
  cases i <;> simp only [exec] at h
  case idl => cases h; exact hs
  case chk =>
    rcases execChk_next h with ⟨-, rfl⟩ | ⟨k, -, rfl⟩ <;> simpa
  case ldt =>
    rcases execLdt_next h with ⟨-, rfl⟩ | ⟨-, _, -, rfl⟩ <;> simpa
  case rot => obtain rfl := State.stage_next h; simpa
  case qsw => obtain rfl := State.stage_next h; simpa
  case mcs => obtain rfl := State.stage_next h; simpa
  case rgs => obtain rfl := State.stage_next h; simpa
  case plt =>
    obtain ⟨-, rfl⟩ := execPlt_next h
    rcases (s.setFrame (s.frame.writeAll s.tileWrites)).advance_cases with ⟨-, e⟩ | ⟨-, -, e⟩ | ⟨-, -, e⟩ <;>
      rw [e] <;> simpa using Memory.writeAll_wf _ hs
  case mir =>
    obtain ⟨_, -, rfl⟩ := execMir_next h
    simpa using Memory.writeAll_wf _ hs
  case crp => cases h; simpa
  case hlt => cases h; exact hs
  case err => cases h; exact hs

/-- Every host action keeps the canonical form. -/
theorem performHost_keeps_frame_wf {a : HostAction} {s t : State} (h : performHost a s = .next t) (hs : s.frame.wf) :
    t.frame.wf := by
  cases a with
  | wr index value =>
    cases h
    generalize Reg.ofIndex index = r
    cases r <;> simp only [State.writeRegister]
    case ctrl =>
      rcases s.writeControl_cases value with ⟨-, e⟩ | ⟨-, -, -, e⟩ | ⟨-, -, e⟩ <;> rw [e] <;> simp [hs, Memory.wf]
    all_goals first | exact hs | (split <;> exact hs)
  | rd index => cases h; simpa
  | push colour => cases h; simpa [State.push]
  | fbrd x y =>
    simp only [performHost, State.deliver] at h
    split at h
    · cases h; simpa
    · cases h
  | lvrd x y =>
    simp only [performHost, State.deliver] at h
    split at h
    · cases h; simpa
    · cases h
  | reset => cases h; simp [Memory.wf]

/-- Every step keeps the canonical form of the frame buffer. -/
theorem step_keeps_frame_wf {s t : State} (h : step s = .next t) (hs : s.frame.wf) : t.frame.wf := by
  obtain ⟨ts, e⟩ := s.takeTurn_state
  have hs' : s.takeTurn.2.frame.wf := by rw [e]; exact hs
  obtain ⟨i, -, ⟨-, h⟩ | ⟨a, -, h⟩⟩ := step_next h
  · exact exec_keeps_frame_wf h hs'
  · exact performHost_keeps_frame_wf h hs'

/-- Reset memory has the canonical form. -/
theorem reset_frame_wf : State.reset.frame.wf := by simp [Memory.wf]

end Sys2Proof.Machine
end

