-- ==== Sys2Proof/Laws/PerInstr.lean ====
section
/-!
SUPPORT. Facts of every instruction as syntax, one lemma per constructor: it is well formed, its code is not reserved, and
the table's word of that code decodes to it.
-/

namespace Sys2Proof.Laws.TableWord

/-- The instruction is well formed, its code is no reserved one, and the decoder reads it back from the table's word. -/
def Statement (i : Instr) : Prop :=
  i.wf = true ∧ operationCodeWf (encode i) = true ∧ decodeTableWord 8 (encode i).toNat = some i

theorem idl : Statement .idl := ⟨rfl, rfl, rfl⟩
theorem chk : Statement .chk := ⟨rfl, rfl, rfl⟩
theorem ldt : Statement .ldt := ⟨rfl, rfl, rfl⟩
theorem rot : Statement .rot := ⟨rfl, rfl, rfl⟩
theorem qsw : Statement .qsw := ⟨rfl, rfl, rfl⟩
theorem mcs : Statement .mcs := ⟨rfl, rfl, rfl⟩
theorem rgs : Statement .rgs := ⟨rfl, rfl, rfl⟩
theorem plt : Statement .plt := ⟨rfl, rfl, rfl⟩
theorem mir : Statement .mir := ⟨rfl, rfl, rfl⟩
theorem crp : Statement .crp := ⟨rfl, rfl, rfl⟩
theorem hlt : Statement .hlt := ⟨rfl, rfl, rfl⟩
theorem err : Statement .err := ⟨rfl, rfl, rfl⟩

end Sys2Proof.Laws.TableWord
end

