-- ==== Sys2Proof/Certificates/Slice0/Obligations.lean ====
section
/-!
DEFINITION. The statements for the provers: what the numbered rules of spec/ say of the model. Only statements, no proofs.
-/

open Sys2Proof Sys2Proof.Machine

/-! ## Encoding -/

/-- R80: the operation map, every 4-bit value listed. -/
def Obligations.OperationMapListsEveryCode : Prop :=
  decode 0x0#4 = .ok .idl ∧ decode 0x1#4 = .ok .chk ∧ decode 0x2#4 = .ok .ldt ∧ decode 0x3#4 = .ok .rot ∧
  decode 0x4#4 = .ok .qsw ∧ decode 0x5#4 = .ok .mcs ∧ decode 0x6#4 = .ok .rgs ∧ decode 0x7#4 = .ok .plt ∧
  decode 0x8#4 = .ok .mir ∧ decode 0x9#4 = .ok .crp ∧ decode 0xA#4 = .ok .hlt ∧
  decode 0xB#4 = .error (.reservedCode 0xB#4) ∧ decode 0xC#4 = .error (.reservedCode 0xC#4) ∧
  decode 0xD#4 = .error (.reservedCode 0xD#4) ∧ decode 0xE#4 = .error (.reservedCode 0xE#4) ∧
  decode 0xF#4 = .ok .err

/-- R77, R80: a word decodes to an operation exactly when it is that operation's code; in particular the encoding loses
nothing and no two codes stand for one operation. That a word above 0xF is no operation is the model's choice (log 13). -/
def Obligations.TableWordDecodesExactlyToItsCode : Prop :=
  ∀ (nbits w : Nat) (i : Instr), decodeTableWord nbits w = some i ↔ w = (encode i).toNat

/-- R81, R176 item a: a state with a reserved code in `PHASE` has no step, whoever's turn it is, and is not final. That the
host's turn is refused too is the model's choice (log 10). -/
def Obligations.ReservedPhaseHasNoStep : Prop :=
  ∀ s : State, errValueWf s.err = true → 0xB ≤ s.phase.toNat → s.phase.toNat ≤ 0xE →
    step s = .refused (.reservedOperation s.phase) ∧ s.endedWell = false

/-- U17 of 93_implementation_defined.md: a state with a reserved value in `ERR` has no step. Which values count as reserved is
fixed in log 11. -/
def Obligations.ReservedErrValueHasNoStep : Prop :=
  ∀ s : State,
    (4 ≤ (errCode s.err).toNat ∨ 6 ≤ (errCause s.err).toNat ∨ (errCode s.err ≠ 3#4 ∧ errCause s.err ≠ 0#4)) →
    step s = .refused (.reservedErrValue s.err)

/-! ## The step -/

/-- R11, R23: the engine executes the operation whose code is in `PHASE`; a host action is one step. The turn list is the
model's own (log 8); a turn taken leaves the list. -/
def Obligations.StepRunsTheOperationInPhase : Prop :=
  ∀ (s : State) (i : Instr), errValueWf s.err = true → decode s.phase = .ok i →
    (s.turns = [] → step s = exec i s) ∧
    (∀ ts, s.turns = .engine :: ts → step s = exec i { s with turns := ts }) ∧
    (∀ a ts, s.turns = .host a :: ts → step s = performHost a { s with turns := ts })

/-- The word the table gives an operation, placed where the step fetches, is run by the very next step (log 12). -/
def Obligations.FetchWordRunsItsOperation : Prop :=
  ∀ (s : State) (nbits w : Nat) (i : Instr), decodeTableWord nbits w = some i →
    step (s.withFetchWord nbits w) =
      exec i { s with phase := encode i, err := if errValueWf s.err then s.err else 0 }

/-! ## IDL, CHK, HLT, ERR -/

/-- R140: IDL holds, with no flag set; the block stays in IDL while the host does nothing. -/
def Obligations.IdleHoldsWithNoFlagSet : Prop :=
  encode .idl = 0x0#4 ∧
  (∀ s : State, exec .idl s = .next s) ∧
  (∀ s : State, s.phase = 0x0#4 → s.busy = false ∧ s.done = false ∧ s.faulted = false) ∧
  (∀ s : State, s.phase = 0x0#4 → errValueWf s.err = true → s.turns = [] → step s = .next s)

/-- R145, R146, R147: HLT and ERR do nothing and stay, with `DONE`, and with `STATUS.ERR`, set. That the step the engine does
not have is a step that changes nothing is the model's choice (log 1). -/
def Obligations.TerminalPhasesDoNothing : Prop :=
  encode .hlt = 0xA#4 ∧ encode .err = 0xF#4 ∧
  (∀ s : State, exec .hlt s = .next s) ∧ (∀ s : State, exec .err s = .next s) ∧
  (∀ s : State, s.phase = 0xA#4 → s.status = 2#16) ∧
  (∀ s : State, s.phase = 0xF#4 → s.status = 4#16)

/-- R143, R162, R168, R170: CHK on legal dimensions clears the position and the view and goes on to LDT; on illegal ones it
records code 3 and the lowest cause that holds and goes to ERR; either way it changes nothing else. -/
def Obligations.ChkPassesOrReportsTheLowestCause : Prop :=
  ∀ s : State,
    let fault (value : Byte) := exec .chk s = .next { s with err := value, phase := 0xF#4 }
    let badWidth := s.width.toNat = 0 ∨ s.width.toNat % 8 ≠ 0
    let badHeight := s.height.toNat = 0 ∨ s.height.toNat % 8 ≠ 0
    let wide := s.width.toNat < s.lwidth.toNat
    let high := s.height.toNat < s.lheight.toNat
    let large := s.params.fbMaxPixels < s.width.toNat * s.height.toNat
    (badWidth → fault 0x13#8) ∧
    (¬ badWidth → badHeight → fault 0x23#8) ∧
    (¬ badWidth → ¬ badHeight → wide → fault 0x33#8) ∧
    (¬ badWidth → ¬ badHeight → ¬ wide → high → fault 0x43#8) ∧
    (¬ badWidth → ¬ badHeight → ¬ wide → ¬ high → large → fault 0x53#8) ∧
    (¬ badWidth → ¬ badHeight → ¬ wide → ¬ high → ¬ large →
      exec .chk s = .next { s with tx := 0, ty := 0, vw := 0, vh := 0, phase := 0x2#4 })

/-- R170: what raising `InvalidDimensions` does, for every cause, and nothing else. -/
def Obligations.RaiseWritesErrAndPhaseOnly : Prop :=
  ∀ (s : State) (cause : BitVec 4),
    let t := s.raiseInvalidDimensions cause
    errCode t.err = 3#4 ∧ errCause t.err = cause ∧ t.phase = 0xF#4 ∧ t.faulted = true ∧ t.busy = false ∧
    { t with err := s.err, phase := s.phase } = s

/-- R144 item f, D10: with the default capacity cause 5 never occurs. The default is the parameter value reset gives (log 7). -/
def Obligations.DefaultCapacityNeverExceeded : Prop :=
  ∀ s : State, s.params = Config.standard → s.dimensionCause ≠ some 5#4

/-! ## LDT and the four stages -/

/-- R100: with fewer than 64 colours waiting LDT holds; with 64 it loads them column by column, records the offset, goes on
to ROT, and changes nothing else. -/
def Obligations.LdtLoadsColumnByColumn : Prop :=
  ∀ s : State,
    (s.input.length < 64 → exec .ldt s = .next s) ∧
    (64 ≤ s.input.length →
      ∃ t : State, exec .ldt s = .next t ∧
        (∀ c r : Fin 8, s.input[8 * c.val + r.val]? = some (t.tile.cell c r)) ∧
        t.input = s.input.drop 64 ∧
        t.offx.toNat = 8 * s.tx.toNat ∧ t.offy.toNat = 8 * s.ty.toNat ∧
        t.phase = 0x3#4 ∧
        { t with tile := s.tile, tileWritten := s.tileWritten, input := s.input, offx := s.offx, offy := s.offy,
                 phase := s.phase } = s)

/-- R102: with fewer than 64 colours LDT holds; for as long as the host supplies none it holds for ever. -/
def Obligations.LdtHoldsForEverWithoutColours : Prop :=
  ∀ s : State, s.input.length < 64 →
    exec .ldt s = .next s ∧
    (s.phase = 0x2#4 → errValueWf s.err = true → s.turns = [] → ∀ n, core.run n s = .next s)

/-- R103: ROT turns every 2×2 block counter-clockwise, goes on to QSW, and changes nothing else; and its closed form. -/
def Obligations.RotTurnsEveryBlock : Prop :=
  ∀ s : State, ∃ t : State, exec .rot s = .next t ∧
    (∀ a b : Fin 4,
      let c : Fin 8 := ⟨2 * a.val, by omega⟩
      let r : Fin 8 := ⟨2 * b.val, by omega⟩
      t.tile.cell c r = s.tile.cell (c + 1) r ∧
      t.tile.cell (c + 1) r = s.tile.cell (c + 1) (r + 1) ∧
      t.tile.cell (c + 1) (r + 1) = s.tile.cell c (r + 1) ∧
      t.tile.cell c (r + 1) = s.tile.cell c r) ∧
    (∀ c r c' r' : Fin 8, c'.val = (c.val &&& 6) ||| (1 - (r.val &&& 1)) → r'.val = (r.val &&& 6) ||| (c.val &&& 1) →
      t.tile.cell c r = s.tile.cell c' r') ∧
    t.phase = 0x4#4 ∧
    { t with tile := s.tile, phase := s.phase } = s

/-- R105: QSW exchanges the upper-right and lower-left quadrants by translation, goes on to MCS, and changes nothing else. -/
def Obligations.QswSwapsTwoQuadrants : Prop :=
  ∀ s : State, ∃ t : State, exec .qsw s = .next t ∧
    (∀ c r : Fin 8, 4 ≤ c.val → r.val < 4 →
      t.tile.cell c r = s.tile.cell (c - 4) (r + 4) ∧ t.tile.cell (c - 4) (r + 4) = s.tile.cell c r) ∧
    (∀ c r : Fin 8, (c.val < 4 ↔ r.val < 4) → t.tile.cell c r = s.tile.cell c r) ∧
    t.phase = 0x5#4 ∧
    { t with tile := s.tile, phase := s.phase } = s

/-- R107: MCS exchanges the column pairs {2,3} and {4,5}, goes on to RGS, and changes nothing else; and its closed form. -/
def Obligations.McsSwapsMiddleColumnPairs : Prop :=
  ∀ s : State, ∃ t : State, exec .mcs s = .next t ∧
    (∀ r : Fin 8,
      t.tile.cell 2 r = s.tile.cell 4 r ∧ t.tile.cell 3 r = s.tile.cell 5 r ∧
      t.tile.cell 4 r = s.tile.cell 2 r ∧ t.tile.cell 5 r = s.tile.cell 3 r ∧
      t.tile.cell 0 r = s.tile.cell 0 r ∧ t.tile.cell 1 r = s.tile.cell 1 r ∧
      t.tile.cell 6 r = s.tile.cell 6 r ∧ t.tile.cell 7 r = s.tile.cell 7 r) ∧
    (∀ c c' r : Fin 8, 2 ≤ c.val → c.val ≤ 5 → c'.val = c.val ^^^ 6 → t.tile.cell c r = s.tile.cell c' r) ∧
    t.phase = 0x6#4 ∧
    { t with tile := s.tile, phase := s.phase } = s

/-- R109: RGS reorders the rows of each half to 1, 3, 0, 2 and 5, 7, 4, 6, goes on to PLT, and changes nothing else. -/
def Obligations.RgsReordersRowsOfEachHalf : Prop :=
  ∀ s : State, ∃ t : State, exec .rgs s = .next t ∧
    (∀ c : Fin 8,
      t.tile.cell c 0 = s.tile.cell c 1 ∧ t.tile.cell c 1 = s.tile.cell c 3 ∧
      t.tile.cell c 2 = s.tile.cell c 0 ∧ t.tile.cell c 3 = s.tile.cell c 2 ∧
      t.tile.cell c 4 = s.tile.cell c 5 ∧ t.tile.cell c 5 = s.tile.cell c 7 ∧
      t.tile.cell c 6 = s.tile.cell c 4 ∧ t.tile.cell c 7 = s.tile.cell c 6) ∧
    t.phase = 0x7#4 ∧
    { t with tile := s.tile, phase := s.phase } = s

/-- R22, R176 item c: no operation reads `T` before an LDT has written it since the last reset: from every state that meets the
invariant the engine's next operation is none that does. The operations that read `T` are ROT, QSW, MCS, RGS and PLT (R79). The
mark `tileWritten` is the model's record of the load (log 3): false after reset, made true by LDT, made false by a reset, and
changed by nothing else. -/
def Obligations.TileIsLoadedBeforeItIsRead : Prop :=
  (∀ s : State, s.Inv → s.readsUnwrittenTile = false) ∧
  (∀ i : Instr, readsTile i = true ↔ i ∈ [Instr.rot, .qsw, .mcs, .rgs, .plt]) ∧
  State.reset.tileWritten = false ∧
  (∀ s t : State, performHost .reset s = .next t → t.tileWritten = false) ∧
  (∀ s : State, 64 ≤ s.input.length → ∃ t : State, exec .ldt s = .next t ∧ t.tileWritten = true) ∧
  (∀ s t : State, step s = .next t → t.tileWritten ≠ s.tileWritten →
    (s.phase = 0x2#4 ∧ s.takeTurn.1 = .engine ∧ 64 ≤ s.input.length ∧ t.tileWritten = true) ∨
    (t.tileWritten = false ∧ ∃ a, s.takeTurn.1 = .host a ∧ a.resets = true))

/-- R104: ROT consists of 4-cycles with no fixed cell and is no involution; twice it is a half turn of every block, three times
the clockwise rotation, which is its inverse, and four times the identity. -/
def Obligations.RotHasOrderFour : Prop :=
  (∀ c r : Fin 8, rotSource c r ≠ (c, r) ∧ rotSource (rotSource c r).1 (rotSource c r).2 ≠ (c, r)) ∧
  (∃ t : Tile, (t.permute rotSource).permute rotSource ≠ t) ∧
  ∀ t : Tile,
    let twice := (t.permute rotSource).permute rotSource
    let thrice := twice.permute rotSource
    (∀ a b : Fin 4,
      let c : Fin 8 := ⟨2 * a.val, by omega⟩
      let r : Fin 8 := ⟨2 * b.val, by omega⟩
      twice.cell c r = t.cell (c + 1) (r + 1) ∧ twice.cell (c + 1) r = t.cell c (r + 1) ∧
      twice.cell (c + 1) (r + 1) = t.cell c r ∧ twice.cell c (r + 1) = t.cell (c + 1) r ∧
      thrice.cell c r = t.cell c (r + 1) ∧ thrice.cell (c + 1) r = t.cell c r ∧
      thrice.cell (c + 1) (r + 1) = t.cell (c + 1) r ∧ thrice.cell c (r + 1) = t.cell (c + 1) (r + 1)) ∧
    thrice = t.permute rotInverseSource ∧
    thrice.permute rotSource = t ∧
    (t.permute rotSource).permute rotInverseSource = t ∧ (t.permute rotInverseSource).permute rotSource = t

/-- R106, R108: QSW and MCS are involutions; QSW fixes exactly the upper-left and lower-right quadrants, MCS exactly the columns
0, 1, 6, 7. -/
def Obligations.QswAndMcsAreInvolutions : Prop :=
  (∀ t : Tile, (t.permute qswSource).permute qswSource = t) ∧
  (∀ c r : Fin 8, qswSource c r = (c, r) ↔ (c.val < 4 ↔ r.val < 4)) ∧
  (∀ t : Tile, (t.permute mcsSource).permute mcsSource = t) ∧
  (∀ c r : Fin 8, mcsSource c r = (c, r) ↔ c.val < 2 ∨ 5 < c.val)

/-- R110: RGS consists of 4-cycles with no fixed cell and is no involution; four times it is the identity; its inverse makes
rows 2, 0, 3, 1 and 6, 4, 7, 5 the new rows. -/
def Obligations.RgsHasOrderFour : Prop :=
  (∀ c r : Fin 8, rgsSource c r ≠ (c, r) ∧ rgsSource (rgsSource c r).1 (rgsSource c r).2 ≠ (c, r)) ∧
  (∃ t : Tile, (t.permute rgsSource).permute rgsSource ≠ t) ∧
  ∀ t : Tile,
    (((t.permute rgsSource).permute rgsSource).permute rgsSource).permute rgsSource = t ∧
    (t.permute rgsSource).permute rgsInverseSource = t ∧ (t.permute rgsInverseSource).permute rgsSource = t ∧
    (∀ c : Fin 8,
      let u := t.permute rgsInverseSource
      u.cell c 0 = t.cell c 2 ∧ u.cell c 1 = t.cell c 0 ∧ u.cell c 2 = t.cell c 3 ∧ u.cell c 3 = t.cell c 1 ∧
      u.cell c 4 = t.cell c 6 ∧ u.cell c 5 = t.cell c 4 ∧ u.cell c 6 = t.cell c 7 ∧ u.cell c 7 = t.cell c 5)

/-- R111, R112: the four stages in order carry every tile to the Morton arrangement: cell `(c, r)` ends with the colour that
was in `x[M(c, r)]`. -/
def Obligations.FourStagesComposeToMorton : Prop :=
  ∀ s : State, ∃ s1 s2 s3 s4 : State,
    exec .rot s = .next s1 ∧ exec .qsw s1 = .next s2 ∧ exec .mcs s2 = .next s3 ∧ exec .rgs s3 = .next s4 ∧
    (∀ c r : Fin 8, s.tile[morton c.val r.val]? = some (s4.tile.cell c r)) ∧
    { s4 with tile := s.tile, phase := s.phase } = s

/-- R113: no stage can fail and none changes a colour: the tile after it holds the same colours, each as often. -/
def Obligations.StagesKeepTheMultisetOfColours : Prop :=
  ∀ (i : Instr) (s : State), i ∈ [Instr.rot, .qsw, .mcs, .rgs] →
    ∃ t : State, exec i s = .next t ∧ t.tile.toList.Perm s.tile.toList

/-- R196: of the six pairs of stages exactly two do not commute, ROT with RGS and QSW with MCS. -/
def Obligations.ExactlyTwoPairsOfStagesDoNotCommute : Prop :=
  let commute (f g : Fin 8 → Fin 8 → Fin 8 × Fin 8) : Prop :=
    ∀ t : Tile, (t.permute f).permute g = (t.permute g).permute f
  commute rotSource qswSource ∧ commute rotSource mcsSource ∧ commute qswSource rgsSource ∧ commute mcsSource rgsSource ∧
  ¬ commute rotSource rgsSource ∧ ¬ commute qswSource mcsSource

/-! ## PLT, MIR, CRP -/

/-- R120, R122: with the tile inside the frame (R121), PLT copies its 64 cells to the frame at the offset, leaves every other
cell and the tile as they were, and advances: next tile of the row, else first tile of the next row, else MIR. -/
def Obligations.PltPlacesTheTileAndAdvances : Prop :=
  ∀ s : State, s.offx.toNat + 7 < s.width.toNat → s.offy.toNat + 7 < s.height.toNat →
    ∃ t : State, exec .plt s = .next t ∧
      (∀ c r : Fin 8,
        t.frame.read (cellAddress (s.offx.toNat + c.val) (s.offy.toNat + r.val)) = some (s.tile.cell c r)) ∧
      (∀ a : Nat, (∀ c r : Fin 8, a ≠ cellAddress (s.offx.toNat + c.val) (s.offy.toNat + r.val)) →
        t.frame.read a = s.frame.read a) ∧
      (s.tx.toNat + 1 < s.width.toNat / 8 →
        t.tx.toNat = s.tx.toNat + 1 ∧ t.ty = s.ty ∧ t.phase = 0x2#4) ∧
      (¬ s.tx.toNat + 1 < s.width.toNat / 8 → s.ty.toNat + 1 < s.height.toNat / 8 →
        t.tx = 0 ∧ t.ty.toNat = s.ty.toNat + 1 ∧ t.phase = 0x2#4) ∧
      (¬ s.tx.toNat + 1 < s.width.toNat / 8 → ¬ s.ty.toNat + 1 < s.height.toNat / 8 →
        t.tx = s.tx ∧ t.ty = s.ty ∧ t.phase = 0x8#4) ∧
      { t with frame := s.frame, tx := s.tx, ty := s.ty, phase := s.phase } = s

/-- R36, R53: PLT writes no cell outside the frame. In a state whose tile is not inside it the model stops (its choice, log 6). -/
def Obligations.PltStopsOutsideTheFrame : Prop :=
  ∀ s : State, s.width.toNat ≤ s.offx.toNat + 7 ∨ s.height.toNat ≤ s.offy.toNat + 7 →
    exec .plt s = .fault .cellOutsideFrame

/-- R122: while tiles remain, PLT raises the tile number `t = TY * GW + TX` by exactly 1; from the last tile, number
`GW * GH - 1`, it goes to MIR. -/
def Obligations.PltWalksTheGridInOrder : Prop :=
  ∀ s t : State, s.tx.toNat < s.tilesAcross → s.ty.toNat < s.tilesDown → exec .plt s = .next t →
    (s.tileNumber + 1 < s.tilesAcross * s.tilesDown → t.phase = 0x2#4 ∧ t.tileNumber = s.tileNumber + 1 ∧
      t.tx.toNat < t.tilesAcross ∧ t.ty.toNat < t.tilesDown) ∧
    (s.tileNumber + 1 = s.tilesAcross * s.tilesDown → t.phase = 0x8#4 ∧ t.tileNumber = s.tileNumber) ∧
    s.tileNumber < s.tilesAcross * s.tilesDown

/-- R124: on a frame whose cells are all written (R66), MIR reflects it left to right, leaves every other cell, goes on to CRP,
and changes nothing else. -/
def Obligations.MirReflectsTheFrame : Prop :=
  ∀ s : State, s.FrameWritten →
    ∃ t : State, exec .mir s = .next t ∧
      (∀ x y, x < s.width.toNat → y < s.height.toNat →
        t.frame.read (cellAddress x y) = s.frame.read (cellAddress (s.width.toNat - 1 - x) y)) ∧
      (∀ a : Nat, (∀ x y, x < s.width.toNat → y < s.height.toNat → a ≠ cellAddress x y) →
        t.frame.read a = s.frame.read a) ∧
      t.phase = 0x9#4 ∧
      { t with frame := s.frame, phase := s.phase } = s

/-- R176 item c: MIR of a frame with an unwritten cell is refused. -/
def Obligations.MirRefusesAnUnwrittenCell : Prop :=
  ∀ (s : State) (x y : Nat), x < s.width.toNat → y < s.height.toNat → s.frame.read (cellAddress x y) = none →
    exec .mir s = .refused .unwrittenCell

/-- R125: exchanging column `x` with column `WIDTH - 1 - x`, for `x` below `WIDTH / 2` only, in place, gives MIR's frame. -/
def Obligations.MirrorByExchangeIsMir : Prop :=
  ∀ s t : State, s.frame.wf → exec .mir s = .next t →
    t.frame = mirrorByExchange s.width.toNat s.height.toNat s.frame

/-- R127: CRP opens the logical view and goes to HLT, where `DONE` is 1; nothing else changes. From then on the logical raster
is exactly the rectangle of `VW` by `VH` pixels at the origin, and its pixels are the full raster's. -/
def Obligations.CrpOpensTheLogicalView : Prop :=
  ∀ s : State, ∃ t : State,
    exec .crp s = .next t ∧ t = { s with vw := s.lwidth, vh := s.lheight, phase := 0xA#4 } ∧ t.done = true ∧
    ∀ x y : Half,
      (performHost (.lvrd x y) t ≠ .refused .readOutOutsideRaster ↔
        x.toNat < s.lwidth.toNat ∧ y.toNat < s.lheight.toNat) ∧
      (x.toNat < s.lwidth.toNat → y.toNat < s.lheight.toNat → x.toNat < s.width.toNat → y.toNat < s.height.toNat →
        performHost (.lvrd x y) t = performHost (.fbrd x y) t)

/-! ## Read-out -/

/-- R128, R129, R130: with `DONE` set, `fbrd` and `lvrd` return the channels of the cell, inside the full raster and inside
the logical view. That the answer goes to the host's replies is the model's choice (log 9), and so is that a cell nothing has
written, which no finished frame has (R66), is refused (log 4). -/
def Obligations.ReadOutsReturnTheChannelsOfTheCell : Prop :=
  ∀ (s : State) (x y : Half) (v : Colour), s.phase = 0xA#4 → s.frame.read (cellAddress x.toNat y.toNat) = some v →
    let delivered : Host.Outcome State Fault Refusal :=
      .next { s with replies := s.replies ++
        [.pixel { red := v.extractLsb' 16 8, green := v.extractLsb' 8 8, blue := v.extractLsb' 0 8 }] }
    (x.toNat < s.width.toNat → y.toNat < s.height.toNat → performHost (.fbrd x y) s = delivered) ∧
    (x.toNat < s.vw.toNat → y.toNat < s.vh.toNat → performHost (.lvrd x y) s = delivered) ∧
    (∀ u : State, u.phase = 0xA#4 → u.frame.read (cellAddress x.toNat y.toNat) = none →
      (x.toNat < u.width.toNat → y.toNat < u.height.toNat → performHost (.fbrd x y) u = .refused .unwrittenCell) ∧
      (x.toNat < u.vw.toNat → y.toNat < u.vh.toNat → performHost (.lvrd x y) u = .refused .unwrittenCell))

/-- R131: a read-out while `DONE` is 0, or outside its raster, is refused. -/
def Obligations.ReadOutsElsewhereAreRefused : Prop :=
  ∀ (s : State) (x y : Half),
    (s.phase ≠ 0xA#4 → performHost (.fbrd x y) s = .refused .readOutBeforeDone ∧
      performHost (.lvrd x y) s = .refused .readOutBeforeDone) ∧
    (s.phase = 0xA#4 → s.width.toNat ≤ x.toNat ∨ s.height.toNat ≤ y.toNat →
      performHost (.fbrd x y) s = .refused .readOutOutsideRaster) ∧
    (s.phase = 0xA#4 → s.vw.toNat ≤ x.toNat ∨ s.vh.toNat ≤ y.toNat →
      performHost (.lvrd x y) s = .refused .readOutOutsideRaster)

/-- R70, R71: a colour is red, green, blue from the top, and packing and channel extraction are inverse to each other. -/
def Obligations.PackAndChannelsAreInverse : Prop :=
  (∀ r g b : Byte, (pack r g b).toNat = 65536 * r.toNat + 256 * g.toNat + b.toNat) ∧
  (∀ r g b : Byte, (channels (pack r g b)).red = r ∧ (channels (pack r g b)).green = g ∧ (channels (pack r g b)).blue = b) ∧
  (∀ v : Colour, pack (channels v).red (channels v).green (channels v).blue = v)

/-! ## The register file and the host's commands -/

/-- R25, R154: what a read of each of the sixteen indices returns, zero-extended; a read changes nothing but the host's
replies (log 9). -/
def Obligations.RegisterReadsFollowTheMap : Prop :=
  ∀ s : State,
    let reads (index : BitVec 4) (v : Half) :=
      performHost (.rd index) s = .next { s with replies := s.replies ++ [.register v] }
    reads 0x0#4 0 ∧ reads 0x1#4 s.status ∧ reads 0x2#4 (s.err.setWidth 16) ∧ reads 0x3#4 s.width ∧
    reads 0x4#4 s.height ∧ reads 0x5#4 s.lwidth ∧ reads 0x6#4 s.lheight ∧ reads 0x7#4 (s.phase.setWidth 16) ∧
    reads 0x8#4 (s.tx.setWidth 16) ∧ reads 0x9#4 (s.ty.setWidth 16) ∧ reads 0xA#4 s.offx ∧ reads 0xB#4 s.offy ∧
    reads 0xC#4 s.vw ∧ reads 0xD#4 s.vh ∧ reads 0xE#4 0 ∧ reads 0xF#4 0

/-- R24: the three flags, each a function of `PHASE`, at most one of them 1, and `STATUS` with bits 15 to 3 zero. -/
def Obligations.StatusFlagsAreFunctionsOfPhase : Prop :=
  ∀ s : State,
    (s.status.getLsbD 0 = true ↔ 0x1 ≤ s.phase.toNat ∧ s.phase.toNat ≤ 0x9) ∧
    (s.status.getLsbD 1 = true ↔ s.phase = 0xA#4) ∧
    (s.status.getLsbD 2 = true ↔ s.phase = 0xF#4) ∧
    (s.status = 0#16 ∨ s.status = 1#16 ∨ s.status = 2#16 ∨ s.status = 4#16)

/-- R25, R32: a dimension register is written in IDL and keeps its value in every other phase; writes to read-only registers
and to reserved indices are ignored. -/
def Obligations.RegisterWritesFollowTheMap : Prop :=
  ∀ (s : State) (v : Half),
    (s.phase = 0x0#4 →
      performHost (.wr 0x3#4 v) s = .next { s with width := v } ∧
      performHost (.wr 0x4#4 v) s = .next { s with height := v } ∧
      performHost (.wr 0x5#4 v) s = .next { s with lwidth := v } ∧
      performHost (.wr 0x6#4 v) s = .next { s with lheight := v }) ∧
    (s.phase ≠ 0x0#4 → ∀ index ∈ [0x3#4, 0x4#4, 0x5#4, 0x6#4], performHost (.wr index v) s = .next s) ∧
    (∀ index ∈ [0x1#4, 0x2#4, 0x7#4, 0x8#4, 0x9#4, 0xA#4, 0xB#4, 0xC#4, 0xD#4, 0xE#4, 0xF#4],
      performHost (.wr index v) s = .next s)

/-- R141: START in IDL goes to CHK and changes nothing else; in every other phase it does nothing. Without START and RST a
write to `CTRL` does nothing (R26). -/
def Obligations.StartActsInIdleOnly : Prop :=
  ∀ (s : State) (v : Half), v.getLsbD 1 = false →
    (v.getLsbD 0 = true → s.phase = 0x0#4 → performHost (.wr 0x0#4 v) s = .next { s with phase := 0x1#4 }) ∧
    (v.getLsbD 0 = true → s.phase ≠ 0x0#4 → performHost (.wr 0x0#4 v) s = .next s) ∧
    (v.getLsbD 0 = false → performHost (.wr 0x0#4 v) s = .next s)

/-- R190: the reset input, in any phase, puts every register to its reset value and empties `IN`; a write of `CTRL` with RST set
has the same effect, whatever START is (R142, D32). `T` and `FB` become unspecified, and the statement says nothing of them. -/
def Obligations.ResetPutsEveryRegisterToItsResetValue : Prop :=
  ∀ s : State, ∃ t : State, performHost .reset s = .next t ∧
    t.phase = 0x0#4 ∧ t.status = 0#16 ∧ t.err = 0#8 ∧
    t.width = 0#16 ∧ t.height = 0#16 ∧ t.lwidth = 0#16 ∧ t.lheight = 0#16 ∧
    t.tx = 0#13 ∧ t.ty = 0#13 ∧ t.offx = 0#16 ∧ t.offy = 0#16 ∧ t.vw = 0#16 ∧ t.vh = 0#16 ∧
    t.input = [] ∧
    (∀ v : Half, v.getLsbD 1 = true → performHost (.wr 0x0#4 v) s = .next t)

/-- R191: the values of the state after reset, where the engine waits in IDL. `T` and `FB` are unspecified, and the statement says
nothing of them. -/
def Obligations.StateAfterResetHasTheResetValues : Prop :=
  State.reset.phase = 0x0#4 ∧ State.reset.status = 0#16 ∧ State.reset.readRegister .ctrl = 0#16 ∧ State.reset.err = 0#8 ∧
  State.reset.width = 0#16 ∧ State.reset.height = 0#16 ∧ State.reset.lwidth = 0#16 ∧ State.reset.lheight = 0#16 ∧
  State.reset.tx = 0#13 ∧ State.reset.ty = 0#13 ∧ State.reset.offx = 0#16 ∧ State.reset.offy = 0#16 ∧
  State.reset.vw = 0#16 ∧ State.reset.vh = 0#16 ∧ State.reset.input = [] ∧
  step State.reset = .next State.reset

/-- R155: `push` appends the colour to `IN`, in every phase, never fails, and changes nothing else; a reset discards everything
in `IN`. -/
def Obligations.PushAppendsInEveryPhase : Prop :=
  (∀ (s : State) (v : Colour), performHost (.push v) s = .next { s with input := s.input ++ [v] }) ∧
  (∀ s t : State, performHost .reset s = .next t → t.input = [])

/-! ## Whole-machine rules -/

/-- R147: the whole control flow: the successor of every operation with its condition, and what START and reset do. -/
def Obligations.ControlFlowIsTheSuccessorTable : Prop :=
  (∀ (i : Instr) (s t : State), s.phase = encode i → exec i s = .next t → ∃ j, Successor i s j ∧ t.phase = encode j) ∧
  (∀ (a : HostAction) (s t : State), performHost a s = .next t →
    (a.resets = true → t.phase = 0x0#4) ∧
    (a.starts = true → s.phase = 0x0#4 → t.phase = 0x1#4) ∧
    (a.resets = false → (a.starts = false ∨ s.phase ≠ 0x0#4) → t.phase = s.phase))

/-- R79: no operation writes anything but the operands the table lists for it: put back what it may write, and the state is
the one before. Of `T`, QSW and MCS write 32 cells only; of `FB`, PLT writes the 64 cells of the tile only and MIR the cells of
the frame only; CHK writes either its fault or its cleared registers. That a load is recorded is the model's own (log 3). -/
def Obligations.OperationsWriteOnlyTheirOperands : Prop :=
  ∀ (i : Instr) (s t : State), exec i s = .next t →
    match i with
    | .idl => t = s
    | .chk =>
      { t with tx := s.tx, ty := s.ty, vw := s.vw, vh := s.vh, phase := s.phase } = s ∨
      { t with err := s.err, phase := s.phase } = s
    | .ldt =>
      { t with tile := s.tile, tileWritten := s.tileWritten, offx := s.offx, offy := s.offy, input := s.input,
               phase := s.phase } = s
    | .rot => { t with tile := s.tile, phase := s.phase } = s
    | .qsw =>
      { t with tile := s.tile, phase := s.phase } = s ∧
      ∀ c r : Fin 8, ¬ (4 ≤ c.val ∧ r.val < 4) → ¬ (c.val < 4 ∧ 4 ≤ r.val) → t.tile.cell c r = s.tile.cell c r
    | .mcs =>
      { t with tile := s.tile, phase := s.phase } = s ∧
      ∀ c r : Fin 8, ¬ (2 ≤ c.val ∧ c.val ≤ 5) → t.tile.cell c r = s.tile.cell c r
    | .rgs => { t with tile := s.tile, phase := s.phase } = s
    | .plt =>
      { t with frame := s.frame, tx := s.tx, ty := s.ty, phase := s.phase } = s ∧
      ∀ a : Nat, (∀ c r : Fin 8, a ≠ cellAddress (s.offx.toNat + c.val) (s.offy.toNat + r.val)) →
        t.frame.read a = s.frame.read a
    | .mir =>
      { t with frame := s.frame, phase := s.phase } = s ∧
      ∀ a : Nat, a ∉ s.frameCells → t.frame.read a = s.frame.read a
    | .crp => { t with vw := s.vw, vh := s.vh, phase := s.phase } = s
    | .hlt => t = s
    | .err => t = s

/-- R65: of what the engine works on, a host action that is no reset changes only the dimension registers, in IDL; `PHASE`, by
START in IDL; and `IN`, by appending. The replies are the host's own. -/
def Obligations.HostActionsReachOnlyConfigurationStartAndInput : Prop :=
  ∀ (a : HostAction) (s t : State), performHost a s = .next t → a.resets = false →
    (∃ colours : List Colour, t.input = s.input ++ colours) ∧
    (s.phase = 0x0#4 → t.phase = 0x0#4 ∨ (a.starts = true ∧ t.phase = 0x1#4)) ∧
    (s.phase ≠ 0x0#4 →
      t.phase = s.phase ∧ t.width = s.width ∧ t.height = s.height ∧ t.lwidth = s.lwidth ∧ t.lheight = s.lheight) ∧
    { t with input := s.input, phase := s.phase, width := s.width, height := s.height, lwidth := s.lwidth,
             lheight := s.lheight, replies := s.replies } = s

/-- R145, R146, R173, R142: HLT and ERR are left by a reset of the host's only, and in ERR nothing but a reset changes the
register `ERR`. -/
def Obligations.TerminalPhasesAreLeftByResetOnly : Prop :=
  ∀ s t : State, s.phase = 0xA#4 ∨ s.phase = 0xF#4 → step s = .next t →
    (t.phase = s.phase ∧ t.err = s.err ∧ t.frame = s.frame) ∨
    ∃ a, s.takeTurn.1 = .host a ∧ a.resets = true ∧ t.phase = 0x0#4

/-- R32: a host write to a dimension register takes effect in IDL; outside IDL no step but a reset changes one. -/
def Obligations.DimensionsAreFixedOutsideIdle : Prop :=
  (∀ (s : State) (v : Half), s.phase = 0x0#4 →
    performHost (.wr 0x3#4 v) s = .next { s with width := v } ∧
    performHost (.wr 0x4#4 v) s = .next { s with height := v } ∧
    performHost (.wr 0x5#4 v) s = .next { s with lwidth := v } ∧
    performHost (.wr 0x6#4 v) s = .next { s with lheight := v }) ∧
  (∀ s t : State, s.phase ≠ 0x0#4 → step s = .next t → (∀ a, s.takeTurn.1 = .host a → a.resets = false) →
    t.width = s.width ∧ t.height = s.height ∧ t.lwidth = s.lwidth ∧ t.lheight = s.lheight)

/-- R27, R161: the register `ERR` changes only where CHK raises `InvalidDimensions`, to code 3 with a cause from 1 to 5, or by
a reset, to 0. -/
def Obligations.ErrChangesOnlyInChkOrReset : Prop :=
  ∀ s t : State, step s = .next t → t.err ≠ s.err →
    (s.phase = 0x1#4 ∧ s.takeTurn.1 = .engine ∧ t.phase = 0xF#4 ∧ errCode t.err = 3#4 ∧
      1 ≤ (errCause t.err).toNat ∧ (errCause t.err).toNat ≤ 5) ∨
    (t.err = 0#8 ∧ ∃ a, s.takeTurn.1 = .host a ∧ a.resets = true)

/-- R63, R55, R155: what a step does to `IN`: nothing; or LDT takes exactly the 64 oldest; or a push appends its colour; or a
reset empties it. -/
def Obligations.InputKeepsItsOrder : Prop :=
  ∀ s t : State, step s = .next t →
    t.input = s.input ∨
    (s.phase = 0x2#4 ∧ s.takeTurn.1 = .engine ∧ 64 ≤ s.input.length ∧ t.input = s.input.drop 64) ∨
    (∃ v, s.takeTurn.1 = .host (.push v) ∧ t.input = s.input ++ [v]) ∨
    (t.input = [] ∧ ∃ a, s.takeTurn.1 = .host a ∧ a.resets = true)

/-- R111, R113, R65: what an operation does depends on no colour's value: two states that differ in colours only have outcomes
of one kind that differ in colours only. -/
def Obligations.ControlNeverDependsOnColours : Prop :=
  ∀ (i : Instr) (s t : State), SameButColours s t → SameButColoursOutcome (exec i s) (exec i t)

/-! ## The invariant -/

/-- The invariant of the block holds after reset (R191). -/
def Obligations.InvariantHoldsAfterReset : Prop := State.reset.Inv

/-- Every step of engine or host keeps the invariant of the block: legal phase, canonical frame buffer inside the frame,
legal dimensions from LDT on, position in the grid, offset of the current tile, `T` written wherever it is read, exactly the
placed tiles written, the view closed until HLT (R22, R34 to R37, R66, R81, R121). -/
def Obligations.EveryStepKeepsTheInvariant : Prop :=
  ∀ s t : State, s.Inv → step s = .next t → t.Inv

/-- R161, R166, R176: from a state that meets the invariant the engine's step always answers a next state, and a host action
does too unless it is a read-out. -/
def Obligations.OnlyReadOutsCanStop : Prop :=
  ∀ s : State, s.Inv →
    (s.takeTurn.1 = .engine → SafeStep s) ∧
    (∀ a, s.takeTurn.1 = .host a → a.readsOut = false → SafeStep s)

/-- R132, R209, R129, R130: from a state that meets the invariant, with `DONE` set, the full raster, `WIDTH` by `HEIGHT`, and the
logical raster, `LWIDTH` by `LHEIGHT`, read out as streams in scan order: pixel `(x, y)` of a raster `w` wide is number
`y * w + x`, there is no other, and the logical raster's pixels are the full raster's. -/
def Obligations.RasterStreamsAreRowMajor : Prop :=
  ∀ s : State, s.Inv → s.phase = 0xA#4 →
    ∃ full logical : List Pixel,
      s.fullRaster = .ok full ∧ full.length = s.width.toNat * s.height.toNat ∧
      (∀ x y, x < s.width.toNat → y < s.height.toNat →
        ∃ p, full[linearAddress s.width.toNat x y]? = some p ∧ s.fullPixel x y = .ok p) ∧
      s.logicalRaster = .ok logical ∧ logical.length = s.lwidth.toNat * s.lheight.toNat ∧
      (∀ x y, x < s.lwidth.toNat → y < s.lheight.toNat →
        ∃ p, logical[linearAddress s.lwidth.toNat x y]? = some p ∧ s.logicalPixel x y = .ok p ∧ s.fullPixel x y = .ok p)

/-! ## The frame as a whole -/

/-- R133, R149, R208: from CHK, with legal dimensions, the colours of the whole frame waiting and the host silent, exactly
`6 * GW * GH + 3` steps lead to HLT: one step before, `PHASE` is still CRP. (HLT, once reached, is kept, log 1, so it is not
reached sooner.) The frame buffer then holds the full raster in closed form: `FULL[x][y]` is
`S[64 * ((y div 8) * GW + x' div 8) + M(x' mod 8, y mod 8)]` with `x' = WIDTH - 1 - x`. Surplus colours stay in `IN`. -/
def Obligations.WholeFrameIsTheClosedForm : Prop :=
  ∀ s : State, s.phase = 0x1#4 → s.err = 0#8 → s.turns = [] → s.DimensionsLegal →
    s.width.toNat * s.height.toNat ≤ s.input.length →
    ∃ u t : State, core.run (6 * (s.tilesAcross * s.tilesDown) + 2) s = .next u ∧ u.phase = 0x9#4 ∧
      core.run (6 * (s.tilesAcross * s.tilesDown) + 3) s = .next t ∧
      t.phase = 0xA#4 ∧ t.vw = s.lwidth ∧ t.vh = s.lheight ∧
      t.tx.toNat + 1 = s.tilesAcross ∧ t.ty.toNat + 1 = s.tilesDown ∧
      t.input = s.input.drop (s.width.toNat * s.height.toNat) ∧
      (∀ x y, x < s.width.toNat → y < s.height.toNat →
        t.frame.read (cellAddress x y) = s.input[sourceIndex s.width.toNat x y]?)

/-- R95, R133: from the bytes of a file that FTR and PSD accept, with legal dimensions and exactly `width * height` colours, and
from a block in any legal phase whose capacity holds the frame (every `FB_MAX_PIXELS`, log 7), the host's script and the engine
lead to `DONE`, and every pixel of both rasters has the channels the closed form gives. That the script pushes all colours before START is one of the orders R95 allows (log 14). -/
def Obligations.FileBytesDecodeToTheTwoRasters : Prop :=
  ∀ (s : State) (buffer : List Byte) (f : Footer) (colours : List Colour),
    operationCodeWf s.phase = true → errValueWf s.err = true →
    f.width.toNat * f.height.toNat ≤ s.params.fbMaxPixels →
    parseFooter buffer = .ok f → decodePixels (fileBody buffer) = .ok colours →
    0 < f.width.toNat → f.width.toNat % 8 = 0 → 0 < f.height.toNat → f.height.toNat % 8 = 0 →
    f.logicalWidth.toNat ≤ f.width.toNat → f.logicalHeight.toNat ≤ f.height.toNat →
    colours.length = f.width.toNat * f.height.toNat →
    ∃ (actions : List HostAction) (t : State),
      fileScript buffer = .ok actions ∧
      core.run (actions.length + (6 * ((f.width.toNat / 8) * (f.height.toNat / 8)) + 3)) (s.withScript actions) = .next t ∧
      t.phase = 0xA#4 ∧ t.input = [] ∧
      (∀ x y, x < f.width.toNat → y < f.height.toNat →
        ∃ v, colours[sourceIndex f.width.toNat x y]? = some v ∧ t.fullPixel x y = .ok (channels v)) ∧
      (∀ x y, x < f.logicalWidth.toNat → y < f.logicalHeight.toNat → t.logicalPixel x y = t.fullPixel x y)

/-- R56: the linear address of a cell of the frame is below `WIDTH * HEIGHT` and below 2^32, different cells have different
ones, and they lie in the order in which the model's list holds the cells (log 5). -/
def Obligations.LinearAddressesNumberTheFrame : Prop :=
  ∀ w h x y x' y' : Nat, w ≤ 65528 → h ≤ 65528 → x < w → y < h → x' < w → y' < h →
    linearAddress w x y < w * h ∧ linearAddress w x y < 2 ^ 32 ∧
    (linearAddress w x y = linearAddress w x' y' ↔ x = x' ∧ y = y') ∧
    (linearAddress w x y < linearAddress w x' y' ↔ cellAddress x y < cellAddress x' y')

/-! ## The host-side front end -/

/-- R90, R91: FTR fails exactly on a buffer shorter than 12 bytes, and otherwise reads the four fields, low byte first, from
the eight last bytes. -/
def Obligations.FooterParseReadsTheLastBytes : Prop :=
  ∀ buffer : List Byte,
    (buffer.length < 12 → parseFooter buffer = .error .malformedInput) ∧
    (12 ≤ buffer.length → ∃ f : Footer, parseFooter buffer = .ok f ∧
      (∃ lo hi, buffer[buffer.length - 8]? = some lo ∧ buffer[buffer.length - 7]? = some hi ∧
        f.width.toNat = lo.toNat + 256 * hi.toNat) ∧
      (∃ lo hi, buffer[buffer.length - 6]? = some lo ∧ buffer[buffer.length - 5]? = some hi ∧
        f.height.toNat = lo.toNat + 256 * hi.toNat) ∧
      (∃ lo hi, buffer[buffer.length - 4]? = some lo ∧ buffer[buffer.length - 3]? = some hi ∧
        f.logicalWidth.toNat = lo.toNat + 256 * hi.toNat) ∧
      (∃ lo hi, buffer[buffer.length - 2]? = some lo ∧ buffer[buffer.length - 1]? = some hi ∧
        f.logicalHeight.toNat = lo.toNat + 256 * hi.toNat))

/-- R92, R93: PSD fails exactly on a body that is empty or whose length is no multiple of 3, and otherwise its `k`-th colour is
made of the bytes at `n-1-3k` (red), `n-2-3k` (green), `n-3-3k` (blue). -/
def Obligations.PixelDecodeWalksBackwards : Prop :=
  ∀ data : List Byte,
    (data.length < 3 ∨ data.length % 3 ≠ 0 → decodePixels data = .error .malformedInput) ∧
    (3 ≤ data.length → data.length % 3 = 0 → ∃ colours : List Colour,
      decodePixels data = .ok colours ∧ colours.length = data.length / 3 ∧
      ∀ k, k < data.length / 3 → ∃ r g b : Byte,
        data[data.length - 1 - 3 * k]? = some r ∧ data[data.length - 2 - 3 * k]? = some g ∧
        data[data.length - 3 - 3 * k]? = some b ∧
        ∃ v, colours[k]? = some v ∧ v.toNat = 65536 * r.toNat + 256 * g.toNat + b.toNat)

/-- R95, R169, R93: the host's preparation of a file fails exactly on a file that is too short for a footer and one pixel, or
whose body is no multiple of 3 long, and always as `MalformedInput`. -/
def Obligations.FileScriptFailsExactlyOnMalformedFiles : Prop :=
  ∀ buffer : List Byte,
    (bufferWf buffer = false → fileScript buffer = .error .malformedInput) ∧
    (bufferWf buffer = true → ∃ f colours,
      parseFooter buffer = .ok f ∧ decodePixels (fileBody buffer) = .ok colours ∧ fileScript buffer = .ok (hostScript f colours))
end

