-- ==== Sys2Proof/Tests/Slice0.lean ====
section
/-!
SUPPORT. The model's own tests: refused ill-formed terms, words written out from the operation map, one step against the vectors
of 95_test_vectors.md (named in each test's comment), and the witnesses of the statements' hypotheses.
-/

namespace Sys2Proof.Tests

open Sys2Proof.Machine

/-! ### Small states and ways to look at an outcome -/

/-- An 8 by 8 frame, logical raster 8 by 8, in the given phase. -/
def frame8 (phase : BitVec 4) : State :=
  { State.reset with phase := phase, width := 8, height := 8, lwidth := 8, lheight := 8 }

/-- The colours `0, 1, 2, ...`. -/
def ramp (n : Nat) : List Colour := (List.range n).map (BitVec.ofNat 24)

/-- The index tile (B4.1). -/
def indexTile : Tile := Tile.tabulate fun c r => BitVec.ofNat 24 (8 * c.val + r.val)

/-- An 8 by 8 frame with the index tile loaded. -/
def loaded8 (phase : BitVec 4) : State := { frame8 phase with tile := indexTile, tileWritten := true }

/-- The index tile after the four stages (B8.1, R114). -/
def mortonTile : Tile := Tile.tabulate fun c r => BitVec.ofNat 24 (morton c.val r.val)

/-- The frame buffer of an 8 by 8 frame holding grid B8.1. -/
def mortonFrame : Memory := (scanCoords 8 8).map fun p => (cellAddress p.1 p.2, BitVec.ofNat 24 (morton p.1 p.2))

/-- A block about to check the given dimensions, with room for 65536 pixels. -/
def toCheck (w h lw lh : Nat) : State :=
  { State.reset with
    phase := 0x1
    width := BitVec.ofNat 16 w
    height := BitVec.ofNat 16 h
    lwidth := BitVec.ofNat 16 lw
    lheight := BitVec.ofNat 16 lh
    params := { fbMaxPixels := 65536 } }

/-- A block about to place a tile of a frame `w` by `h`, at the grid position and with its offset. -/
def toPlace (w h : Half) (x y : TileCount) : State :=
  { State.reset with
    phase := 0x7
    width := w
    height := h
    tx := x
    ty := y
    offx := 8 * x.setWidth 16
    offy := 8 * y.setWidth 16
    tile := mortonTile
    tileWritten := true }

/-- What a next state shows; nothing for a fault or a refusal. -/
def look {α : Type} (o : Host.Outcome State Fault Refusal) (f : State → α) : Option α :=
  match o with
  | .next t => some (f t)
  | .fault _ => none
  | .refused _ => none

/-- The reason of a refusal. -/
def refusal (o : Host.Outcome State Fault Refusal) : Option Refusal :=
  match o with
  | .refused r => some r
  | .next _ => none
  | .fault _ => none

/-- One row of a tile, as numbers. -/
def row (r : Fin 8) (t : Tile) : List Nat := (List.finRange 8).map fun c => (t.cell c r).toNat

/-- One row of the frame buffer, as numbers. -/
def line (w y : Nat) (s : State) : List (Option Nat) :=
  (List.range w).map fun x => (s.frame.read (cellAddress x y)).map fun v => v.toNat

/-! ### Well-formedness: every check refuses an ill-formed term -/

theorem test_reserved_codes_refused :
    [0xB#4, 0xC#4, 0xD#4, 0xE#4].map operationCodeWf = [false, false, false, false] := by decide
theorem test_err_code_four_refused : errValueWf 0x04 = false := by decide
theorem test_err_cause_six_refused : errValueWf 0x63 = false := by decide
theorem test_err_cause_without_code_refused : errValueWf 0x10 = false := by decide
theorem test_err_values_accepted : [0x00#8, 0x13#8, 0x53#8].map errValueWf = [true, true, true] := by decide
theorem test_short_file_refused : bufferWf (List.replicate 14 0) = false := by decide
theorem test_ragged_body_refused : bufferWf (List.replicate 16 0) = false := by decide
/-- No operation is ill-formed: the format has no operand (R77). -/
theorem test_every_operation_wellformed (i : Instr) : i.wf = true := by cases i <;> rfl

/-! ### Decoding: words written out bit by bit from R80 -/

theorem test_decode_sequencer :
    [0b0000, 0b0001, 0b1010, 0b1111].map (decodeTableWord 8) = [some .idl, some .chk, some .hlt, some .err] := by decide
theorem test_decode_permutation :
    [0b0010, 0b0011, 0b0100, 0b0101, 0b0110].map (decodeTableWord 8) =
      [some .ldt, some .rot, some .qsw, some .mcs, some .rgs] := by decide
theorem test_decode_raster :
    [0b0111, 0b1000, 0b1001].map (decodeTableWord 8) = [some .plt, some .mir, some .crp] := by decide
theorem test_decode_reserved :
    [0b1011, 0b1100, 0b1101, 0b1110, 0b10000, 0b11111].map (decodeTableWord 8) =
      [none, none, none, none, none, none] := by decide

/-- Every operation's word, placed where the step fetches, leads to that operation's successor from the state after reset, but
for PLT, whose tile lies in no frame there (log 6, log 12); the stages move the free values of `T` (log 3). -/
theorem test_first_step_after_reset :
    [0x0, 0x1, 0x2, 0x3, 0x4, 0x5, 0x6, 0x7, 0x8, 0x9, 0xA, 0xF].map
      (fun w => look (step (State.reset.withFetchWord 8 w)) fun t => t.phase.toNat) =
    [some 0x0, some 0xF, some 0x2, some 0x4, some 0x5, some 0x6, some 0x7, none, some 0x9, some 0xA, some 0xA, some 0xF] := by
  decide

/-- The same words from a block that has a tile loaded; PLT's tile lies inside the frame there. -/
theorem test_first_step_with_tile :
    [0x3, 0x4, 0x5, 0x6, 0x7].map (fun w => look (step ((loaded8 0x0).withFetchWord 8 w)) fun t => t.phase.toNat) =
    [some 0x4, some 0x5, some 0x6, some 0x7, some 0x8] := by decide

/-! ### Colours and the front end (B1 to B3) -/

/-- B1.1, B1.6, B1.9. -/
theorem test_colour_and_footer_fields :
    pack 0x12 0x34 0x56 = 0x123456 ∧ channels 0xA1B2C3 = { red := 0xA1, green := 0xB2, blue := 0xC3 } ∧
    le16 0x34 0x12 = 0x1234 := by decide

/-- B2.2: the first four footer bytes have no effect. -/
theorem test_footer_ignores_reserved_bytes :
    (parseFooter [0xDE, 0xAD, 0xBE, 0xEF, 0x10, 0x00, 0x08, 0x00, 0x0C, 0x00, 0x04, 0x00]).toOption =
      some { width := 16, height := 8, logicalWidth := 12, logicalHeight := 4 } := by decide

/-- B2.3. -/
theorem test_footer_short : (parseFooter (List.replicate 11 0)).toOption = none := by decide

/-- B3.3. -/
theorem test_pixels_last_first :
    (decodePixels [0x00, 0x00, 0xFF, 0x00, 0xFF, 0x00, 0xFF, 0x00, 0x00]).toOption =
      some [0x0000FF, 0x00FF00, 0xFF0000] := by decide

/-- B3.4, B3.5. -/
theorem test_pixels_malformed :
    (decodePixels [1, 2, 3, 4]).toOption = none ∧ (decodePixels []).toOption = none := by decide

/-! ### One step of each operation -/

/-- B14.4 and R140. -/
theorem test_idl_holds : look (step State.reset) (fun t => t.phase) = some 0x0 := by decide

/-- B13.2. -/
theorem test_chk_passes :
    look (execChk { State.reset with width := 16, height := 8, lwidth := 12, lheight := 4, tx := 3, vw := 9 })
      (fun t => (t.phase, t.err, t.tx, t.vw)) = some (0x2, 0x00, 0, 0) := by decide

/-- B13.3, B13.7, B13.15, B13.9, B13.23: one vector for each cause. -/
theorem test_chk_causes :
    [(10, 8, 8, 8), (8, 0, 8, 0), (16, 16, 20, 20), (8, 8, 8, 9), (264, 256, 0, 0)].map
      (fun (w, h, lw, lh) => look (execChk (toCheck w h lw lh)) (fun t => (t.phase.toNat, t.err.toNat))) =
    [some (0xF, 0x13), some (0xF, 0x23), some (0xF, 0x33), some (0xF, 0x43), some (0xF, 0x53)] := by decide

/-- B4.7: the tile at (2, 1) with the index tile's colours (B4.1); row 1 of the tile, the offset, how much is left of `IN`. -/
theorem test_ldt_loads :
    look (execLdt { frame8 0x2 with tx := 2, ty := 1, input := ramp 66 })
      (fun t => (row 1 t.tile, t.offx.toNat, t.offy.toNat, t.input.length, t.phase.toNat)) =
    some ([1, 9, 17, 25, 33, 41, 49, 57], 16, 8, 2, 0x3) := by decide

/-- B4.3. -/
theorem test_ldt_holds :
    look (execLdt { frame8 0x2 with input := ramp 63 }) (fun t => (t.input.length, t.phase)) = some (63, 0x2) := by decide

/-- B5.1. -/
theorem test_rot :
    look (execRot (loaded8 0x3)) (fun t => (row 0 t.tile, row 7 t.tile, t.phase)) =
    some ([8, 9, 24, 25, 40, 41, 56, 57], [6, 7, 22, 23, 38, 39, 54, 55], 0x4) := by decide

/-- B6.2. -/
theorem test_qsw :
    look (execQsw (loaded8 0x4)) (fun t => (row 0 t.tile, row 7 t.tile, t.phase)) =
    some ([0, 8, 16, 24, 4, 12, 20, 28], [35, 43, 51, 59, 39, 47, 55, 63], 0x5) := by decide

/-- B7.2. -/
theorem test_mcs :
    look (execMcs (loaded8 0x5)) (fun t => (row 0 t.tile, t.phase)) =
    some ([0, 8, 32, 40, 16, 24, 48, 56], 0x6) := by decide

/-- B8.2: column 0 shows the order of the rows. -/
theorem test_rgs :
    look (execRgs (loaded8 0x6))
      (fun t => ((List.finRange 8).map (fun r => (t.tile.cell 0 r).toNat), t.phase)) =
    some ([1, 3, 0, 2, 5, 7, 4, 6], 0x7) := by decide

/-- B8.1: rows 0 and 3 after the four stages. -/
theorem test_four_stages :
    let t := (((indexTile.permute rotSource).permute qswSource).permute mcsSource).permute rgsSource
    row 0 t = [0, 1, 4, 5, 16, 17, 20, 21] ∧ row 3 t = [10, 11, 14, 15, 26, 27, 30, 31] := by decide

/-- B10.3: the second and last tile of a 16 by 8 frame. -/
theorem test_plt_places :
    look (execPlt (toPlace 16 8 1 0))
      (fun t => (line 16 0 t, t.tx, t.phase)) =
    some (List.replicate 8 none ++ [some 0, some 1, some 4, some 5, some 16, some 17, some 20, some 21], 1, 0x8) := by
  decide

/-- B10.4: the end of a tile row. -/
theorem test_plt_next_row :
    look (execPlt (toPlace 16 16 1 0)) (fun t => (t.tx, t.ty, t.phase)) = some (0, 1, 0x2) := by decide

/-- P2, rows 0 and 7. -/
theorem test_mir :
    look (execMir { frame8 0x8 with frame := mortonFrame }) (fun t => (line 8 0 t, line 8 7 t, t.phase)) =
    some ([21, 20, 17, 16, 5, 4, 1, 0].map some, [63, 62, 59, 58, 47, 46, 43, 42].map some, 0x9) := by decide

/-- B12.1. -/
theorem test_crp :
    look (execCrp { frame8 0x9 with lwidth := 12, lheight := 4 }) (fun t => (t.vw, t.vh, t.phase, t.status)) =
    some (12, 4, 0xA, 2) := by decide

/-- B14.9 and R145. -/
theorem test_hlt_stays : look (execHlt (frame8 0xA)) (fun t => (t.phase, t.status)) = some (0xA, 2) := by decide

/-- P4 and R146. -/
theorem test_err_stays :
    look (execErr { frame8 0xF with err := 0x13 }) (fun t => (t.phase, t.status, t.err)) = some (0xF, 4, 0x13) := by decide

/-! ### Host actions (B12, B14) -/

/-- B12.3, with the frame of P2: `fbrd (0,0)` before the mirror is `S[0]`; B12.6 and B12.10 are refused. -/
theorem test_read_out :
    look (performHost (.fbrd 4 0) { frame8 0xA with frame := mortonFrame }) (fun t => t.replies) =
      some [.pixel { red := 0, green := 0, blue := 16 }] ∧
    refusal (performHost (.fbrd 8 0) { frame8 0xA with frame := mortonFrame }) = some .readOutOutsideRaster ∧
    refusal (performHost (.fbrd 0 0) { frame8 0x8 with frame := mortonFrame }) = some .readOutBeforeDone := by decide

/-- B14.3, B14.6, B14.7, B14.11. -/
theorem test_register_writes :
    look (performHost (.wr 0x0 1) (frame8 0x0)) (fun t => t.phase) = some 0x1 ∧
    look (performHost (.wr 0x0 3) (frame8 0x0)) (fun t => (t.phase, t.width)) = some (0x0, 0) ∧
    look (performHost (.wr 0x3 32) (frame8 0x2)) (fun t => t.width) = some 8 ∧
    look (performHost (.wr 0x0 2) { frame8 0xF with err := 0x13 }) (fun t => (t.phase, t.err)) = some (0x0, 0x00) := by decide

/-- B14.20 and U17. -/
theorem test_reserved_states_refused :
    refusal (step (frame8 0xB)) = some (.reservedOperation 0xB) ∧
    refusal (step { frame8 0x3 with err := 0x63 }) = some (.reservedErrValue 0x63) := by decide

/-! ### Witnesses: concrete states that meet the hypotheses of the statements -/

/-- TableWordDecodesExactlyToItsCode and FetchWordRunsItsOperation. -/
theorem witness_table_word : decodeTableWord 8 0x3 = some .rot := by decide

/-- ReservedPhaseHasNoStep, at both ends of the range. -/
theorem witness_reserved_phase :
    errValueWf (frame8 0xB).err = true ∧ 0xB ≤ (frame8 0xB).phase.toNat ∧ (frame8 0xB).phase.toNat ≤ 0xE ∧
    0xB ≤ (frame8 0xE).phase.toNat ∧ (frame8 0xE).phase.toNat ≤ 0xE := by decide

/-- ReservedErrValueHasNoStep, each clause. -/
theorem witness_reserved_err :
    4 ≤ (errCode 0x04).toNat ∧ 6 ≤ (errCause 0x63).toNat ∧ (errCode 0x12 ≠ 3#4 ∧ errCause 0x12 ≠ 0#4) := by decide

/-- StepRunsTheOperationInPhase: the engine silent, the engine named, the host named. -/
theorem witness_step :
    errValueWf (frame8 0x3).err = true ∧ (decode (frame8 0x3).phase).toOption = some .rot ∧ (frame8 0x3).turns = [] ∧
    ((frame8 0x3).setTurns [.engine]).turns = .engine :: [] ∧
    ((frame8 0x3).setTurns [.host .reset]).turns = .host .reset :: [] := by decide

/-- IdleHoldsWithNoFlagSet and TerminalPhasesDoNothing. -/
theorem witness_resting_phases :
    (frame8 0x0).phase = 0x0#4 ∧ errValueWf (frame8 0x0).err = true ∧ (frame8 0x0).turns = [] ∧
    (frame8 0xA).phase = 0xA#4 ∧ (frame8 0xF).phase = 0xF#4 := by decide

/-- The passing clause of ChkPassesOrReportsTheLowestCause, at the largest legal frame and an empty logical raster (B13.16, B13.10), and the parameters of
DefaultCapacityNeverExceeded. -/
theorem witness_legal_dimensions :
    ({ frame8 0x1 with width := 65528, height := 65528, lwidth := 65528, lheight := 65528 } : State).DimensionsLegal ∧
    ({ frame8 0x1 with lwidth := 0, lheight := 0 } : State).DimensionsLegal ∧
    (frame8 0x1).params = Config.standard := by decide

/-- ChkPassesOrReportsTheLowestCause: the hypotheses of each faulting clause, at dimensions where several causes meet (B13.13 to
B13.15, B13.9, B13.23). -/
theorem witness_illegal_dimensions :
    let badWidth (s : State) := s.width.toNat = 0 ∨ s.width.toNat % 8 ≠ 0
    let badHeight (s : State) := s.height.toNat = 0 ∨ s.height.toNat % 8 ≠ 0
    let wide (s : State) := s.width.toNat < s.lwidth.toNat
    let high (s : State) := s.height.toNat < s.lheight.toNat
    let big (s : State) := s.params.fbMaxPixels < s.width.toNat * s.height.toNat
    badWidth (toCheck 10 9 20 20) ∧ badWidth (toCheck 0 0 0 0) ∧
    (¬ badWidth (toCheck 16 9 20 20) ∧ badHeight (toCheck 16 9 20 20)) ∧
    (¬ badWidth (toCheck 16 16 20 20) ∧ ¬ badHeight (toCheck 16 16 20 20) ∧ wide (toCheck 16 16 20 20)) ∧
    (¬ badWidth (toCheck 8 8 8 9) ∧ ¬ badHeight (toCheck 8 8 8 9) ∧ ¬ wide (toCheck 8 8 8 9) ∧ high (toCheck 8 8 8 9)) ∧
    (¬ badWidth (toCheck 264 256 0 0) ∧ ¬ badHeight (toCheck 264 256 0 0) ∧ ¬ wide (toCheck 264 256 0 0) ∧
      ¬ high (toCheck 264 256 0 0) ∧ big (toCheck 264 256 0 0)) := by decide

/-- LdtLoadsColumnByColumn and LdtHoldsForEverWithoutColours, on both sides of 64. -/
theorem witness_input_lengths :
    64 ≤ ({ frame8 0x2 with input := ramp 64 } : State).input.length ∧
    ({ frame8 0x2 with input := ramp 63 } : State).input.length < 64 ∧
    (frame8 0x2).phase = 0x2#4 ∧ errValueWf (frame8 0x2).err = true ∧ (frame8 0x2).turns = [] := by decide

/-- The closed forms in RotTurnsEveryBlock and McsSwapsMiddleColumnPairs, and the quadrants of QswSwapsTwoQuadrants. -/
theorem witness_cells :
    ((1 : Fin 8).val = ((0 : Fin 8).val &&& 6) ||| (1 - ((0 : Fin 8).val &&& 1))) ∧
    ((0 : Fin 8).val = ((0 : Fin 8).val &&& 6) ||| ((0 : Fin 8).val &&& 1)) ∧
    (2 ≤ (5 : Fin 8).val ∧ (5 : Fin 8).val ≤ 5 ∧ (3 : Fin 8).val = (5 : Fin 8).val ^^^ 6) ∧
    (4 ≤ (4 : Fin 8).val ∧ (3 : Fin 8).val < 4) ∧ ((3 : Fin 8).val < 4 ↔ (0 : Fin 8).val < 4) := by decide

/-- StagesKeepTheMultisetOfColours. -/
theorem witness_stage : Instr.rgs ∈ [Instr.rot, .qsw, .mcs, .rgs] := by decide

/-- TileIsLoadedBeforeItIsRead, each clause (for the invariant see witness_invariant and witness_finished): a read before a
load, outside the invariant, and one after it; the reset; the load; and the two ways the mark changes. -/
theorem witness_unwritten_tile :
    (frame8 0x3).readsUnwrittenTile = true ∧ (loaded8 0x3).readsUnwrittenTile = false ∧
    (look (performHost .reset (loaded8 0x3)) fun t => t.tileWritten) = some false ∧
    (look (step { frame8 0x2 with input := ramp 64 }) fun t => t.tileWritten) = some true ∧
    (look (step ((loaded8 0x3).setTurns [.host .reset])) fun t => t.tileWritten) = some false := by decide

/-- PltPlacesTheTileAndAdvances in its three cases (B10.2, B10.4, B10.3) and PltStopsOutsideTheFrame at the boundary. -/
theorem witness_place :
    let inside (s : State) := s.offx.toNat + 7 < s.width.toNat ∧ s.offy.toNat + 7 < s.height.toNat
    let moreInRow (s : State) := s.tx.toNat + 1 < s.width.toNat / 8
    let moreRows (s : State) := s.ty.toNat + 1 < s.height.toNat / 8
    (inside (toPlace 16 8 0 0) ∧ moreInRow (toPlace 16 8 0 0)) ∧
    (inside (toPlace 16 16 1 0) ∧ ¬ moreInRow (toPlace 16 16 1 0) ∧ moreRows (toPlace 16 16 1 0)) ∧
    (inside (toPlace 16 8 1 0) ∧ ¬ moreInRow (toPlace 16 8 1 0) ∧ ¬ moreRows (toPlace 16 8 1 0)) ∧
    (toPlace 15 8 1 0).width.toNat ≤ (toPlace 15 8 1 0).offx.toNat + 7 ∧
    (toPlace 8 7 0 0).height.toNat ≤ (toPlace 8 7 0 0).offy.toNat + 7 := by decide

/-- PltWalksTheGridInOrder: a tile that is not the last, and the last. -/
theorem witness_grid :
    let s := toPlace 16 8 0 0
    let last := toPlace 16 8 1 0
    (s.tx.toNat < s.tilesAcross ∧ s.ty.toNat < s.tilesDown ∧ (look (execPlt s) fun t => t.phase) = some 0x2 ∧
      s.tileNumber + 1 < s.tilesAcross * s.tilesDown) ∧
    (last.tx.toNat < last.tilesAcross ∧ last.ty.toNat < last.tilesDown ∧
      (look (execPlt last) fun t => t.phase) = some 0x8 ∧
      last.tileNumber + 1 = last.tilesAcross * last.tilesDown) := by decide

theorem written_mortonFrame : ∀ x < 8, ∀ y < 8, (mortonFrame.read (cellAddress x y)).isSome = true := by decide

/-- MirReflectsTheFrame and MirrorByExchangeIsMir. -/
theorem witness_written_frame :
    ({ frame8 0x8 with frame := mortonFrame } : State).FrameWritten ∧ mortonFrame.wf ∧
    (look (execMir { frame8 0x8 with frame := mortonFrame }) fun t => t.phase) = some 0x9 :=
  ⟨fun x y hx hy => written_mortonFrame x hx y hy, by decide, by decide⟩

/-- MirRefusesAnUnwrittenCell. -/
theorem witness_unwritten_cell :
    7 < (frame8 0x8).width.toNat ∧ 7 < (frame8 0x8).height.toNat ∧ (frame8 0x8).frame.read (cellAddress 7 7) = none := by decide

/-- ReadOutsReturnTheChannelsOfTheCell, ReadOutsElsewhereAreRefused and CrpOpensTheLogicalView, on both sides of the raster's edge. -/
theorem witness_read_out :
    let s : State := { frame8 0xA with frame := mortonFrame, vw := 5, vh := 3 }
    s.phase = 0xA#4 ∧ s.frame.read (cellAddress (7 : Half).toNat (7 : Half).toNat) = some 63 ∧
    (7 : Half).toNat < s.width.toNat ∧ s.frame.read (cellAddress (4 : Half).toNat (2 : Half).toNat) = some 24 ∧
    (4 : Half).toNat < s.vw.toNat ∧ (2 : Half).toNat < s.vh.toNat ∧
    s.width.toNat ≤ (8 : Half).toNat ∧ s.vw.toNat ≤ (5 : Half).toNat ∧ (frame8 0x8).phase ≠ 0xA#4 ∧
    (frame8 0xA).phase = 0xA#4 ∧ (frame8 0xA).frame.read (cellAddress (7 : Half).toNat (7 : Half).toNat) = none := by decide

/-- RegisterWritesFollowTheMap, StartActsInIdleOnly, ResetPutsEveryRegisterToItsResetValue. -/
theorem witness_control_values :
    (1 : Half).getLsbD 1 = false ∧ (1 : Half).getLsbD 0 = true ∧ (4 : Half).getLsbD 0 = false ∧ (4 : Half).getLsbD 1 = false ∧
    (3 : Half).getLsbD 1 = true ∧ (frame8 0x0).phase = 0x0#4 ∧ (frame8 0x2).phase ≠ 0x0#4 ∧
    0x6#4 ∈ [0x3#4, 0x4#4, 0x5#4, 0x6#4] := by decide

/-- ControlFlowIsTheSuccessorTable and OperationsWriteOnlyTheirOperands (for its clauses see witness_untouched too): an operation in its own phase that answers a next
state; and host actions that reset, start and do neither. -/
theorem witness_control_flow :
    (loaded8 0x3).phase = encode .rot ∧ (look (exec .rot (loaded8 0x3)) fun t => t.phase) = some 0x4 ∧
    HostAction.reset.resets = true ∧ (HostAction.wr 0x0 1).starts = true ∧ (HostAction.push 7).resets = false ∧
    (HostAction.push 7).starts = false ∧ (look (performHost (.wr 0x0 1) (frame8 0x0)) fun t => t.phase) = some 0x1 ∧
    (look (performHost (.push 7) (frame8 0x2)) fun t => t.phase) = some 0x2 ∧
    (look (performHost .reset (frame8 0x2)) fun t => t.phase) = some 0x0 := by decide

/-- OperationsWriteOnlyTheirOperands: a cell QSW and one MCS does not touch, an address PLT and one MIR does not write, each at
the edge, in a step that goes on. -/
theorem witness_untouched :
    (look (exec .qsw (loaded8 0x4)) fun t => t.phase) = some 0x5 ∧
    (¬ (4 ≤ (3 : Fin 8).val ∧ (3 : Fin 8).val < 4) ∧ ¬ ((3 : Fin 8).val < 4 ∧ 4 ≤ (3 : Fin 8).val)) ∧
    (look (exec .mcs (loaded8 0x5)) fun t => t.phase) = some 0x6 ∧ ¬ (2 ≤ (6 : Fin 8).val ∧ (6 : Fin 8).val ≤ 5) ∧
    (look (exec .plt (toPlace 16 8 1 0)) fun t => t.phase) = some 0x8 ∧
    (∀ c r : Fin 8, cellAddress 7 0 ≠ cellAddress ((toPlace 16 8 1 0).offx.toNat + c.val) ((toPlace 16 8 1 0).offy.toNat + r.val)) ∧
    (look (exec .mir { frame8 0x8 with frame := mortonFrame }) fun t => t.phase) = some 0x9 ∧
    cellAddress 8 0 ∉ (frame8 0x8).frameCells := by decide

/-- TerminalPhasesAreLeftByResetOnly: HLT held, and ERR left. -/
theorem witness_terminal :
    (look (step (frame8 0xA)) fun t => t.phase) = some 0xA ∧
    (look (step (((frame8 0xF).raiseInvalidDimensions 1).setTurns [.host (.wr 0x0 2)])) fun t => t.phase) = some 0x0 := by decide

/-- DimensionsAreFixedOutsideIdle: a late write, and IDL for the first clause. -/
theorem witness_late_write :
    let s : State := (frame8 0x2).setTurns [.host (.wr 0x3 32)]
    (frame8 0x0).phase = 0x0#4 ∧ s.phase ≠ 0x0#4 ∧ (look (step s) fun t => t.width) = some 8 ∧
    s.takeTurn.1 = .host (.wr 0x3 32) ∧ (HostAction.wr 0x3 32).resets = false := by decide

/-- ErrChangesOnlyInChkOrReset: both ways. -/
theorem witness_err_changes :
    (look (step (State.reset.goTo .chk)) fun t => t.err) = some 0x13 ∧
    (look (step (((frame8 0xF).raiseInvalidDimensions 1).setTurns [.host .reset])) fun t => t.err) = some 0x00 := by decide

/-- InputKeepsItsOrder: a load, a push and a reset. -/
theorem witness_input_changes :
    (look (step { frame8 0x2 with input := ramp 65 }) fun t => t.input) = some [64] ∧
    (look (step ((frame8 0x2).setTurns [.host (.push 7)])) fun t => t.input) = some [7] ∧
    (look (step ({ frame8 0x2 with input := ramp 3 }.setTurns [.host .reset])) fun t => t.input) = some [] := by decide

/-- ControlNeverDependsOnColours: two states with different colours. -/
theorem witness_same_but_colours :
    SameButColours { frame8 0x3 with tile := indexTile, input := [1, 2] } { frame8 0x3 with tile := mortonTile, input := [3, 4] } ∧
    indexTile ≠ mortonTile := ⟨⟨rfl, rfl, rfl⟩, by decide⟩

/-- A state in the middle of a run that meets the invariant: EveryStepKeepsTheInvariant and, with the engine's and with the
host's turn, OnlyReadOutsCanStop. -/
theorem witness_invariant : ((frame8 0x2).setTurns [.host (.push 7)]).Inv ∧
    (look (step ((frame8 0x2).setTurns [.host (.push 7)])) fun t => t.input) = some [7] := by
  refine ⟨?_, by decide⟩
  constructor
  case coverage =>
    intro _ x y _ _
    show (none : Option Colour).isSome = true ↔ _
    simp [State.Placed, frame8]
  case frame_inside => intro p hp; cases hp
  all_goals decide

/-- The finished 8 by 8 frame meets the invariant: RasterStreamsAreRowMajor. -/
theorem witness_finished :
    ({ loaded8 0xA with frame := mortonFrame, vw := 8, vh := 8 } : State).Inv ∧
    ({ loaded8 0xA with frame := mortonFrame, vw := 8, vh := 8 } : State).phase = 0xA#4 := by
  refine ⟨?_, rfl⟩
  constructor
  case coverage =>
    intro _ x y hx hy
    exact iff_of_true (written_mortonFrame x hx y hy) (.inl (by decide))
  case frame_inside =>
    intro p hp
    have key : ∀ p ∈ mortonFrame, p.1 % 65536 < 8 ∧ p.1 / 65536 < 8 := by decide
    exact ⟨p.1 % 65536, p.1 / 65536, (key p hp).1, (key p hp).2, by unfold cellAddress; omega⟩
  case before_frame => intro h; exact absurd (by decide : 2 ≤ (10 : Nat) ∧ (10 : Nat) ≤ 10) h
  all_goals decide

/-- WholeFrameIsTheClosedForm, with two surplus colours. -/
theorem witness_whole_frame :
    let s : State := { frame8 0x1 with input := ramp 66 }
    s.phase = 0x1#4 ∧ s.err = 0#8 ∧ s.turns = [] ∧ s.DimensionsLegal ∧
    s.width.toNat * s.height.toNat ≤ s.input.length := by decide

/-- The file of program P1, for a block that holds exactly its frame: FileBytesDecodeToTheTwoRasters and FileScriptFailsExactlyOnMalformedFiles. -/
def solidFile : List Byte :=
  (List.replicate 64 [0x33, 0x22, 0x11]).flatten ++ [0, 0, 0, 0, 8, 0, 8, 0, 8, 0, 8, 0]

theorem witness_file :
    let s : State := { frame8 0xA with params := { fbMaxPixels := 64 } }
    (operationCodeWf s.phase = true ∧ errValueWf s.err = true ∧ 8 * 8 ≤ s.params.fbMaxPixels) ∧
    bufferWf solidFile = true ∧ bufferWf (solidFile.drop 1) = false ∧
    (parseFooter solidFile).toOption = some { width := 8, height := 8, logicalWidth := 8, logicalHeight := 8 } ∧
    (decodePixels (fileBody solidFile)).toOption = some (List.replicate 64 0x112233) := by decide +kernel

/-- LinearAddressesNumberTheFrame: neighbouring cells of the 24 by 16 frame of B10.6. -/
theorem witness_linear_address :
    24 ≤ 65528 ∧ 16 ≤ 65528 ∧ 23 < 24 ∧ 15 < 16 ∧ linearAddress 24 23 15 = 383 ∧ linearAddress 24 0 1 = 24 := by decide

/-- FooterParseReadsTheLastBytes and PixelDecodeWalksBackwards, on both sides of their bounds. -/
theorem witness_lengths :
    (List.replicate 11 (0 : Byte)).length < 12 ∧ 12 ≤ (List.replicate 12 (0 : Byte)).length ∧
    (List.replicate 2 (0 : Byte)).length < 3 ∧ (List.replicate 4 (0 : Byte)).length % 3 ≠ 0 ∧
    3 ≤ (List.replicate 6 (0 : Byte)).length ∧ (List.replicate 6 (0 : Byte)).length % 3 = 0 := by decide

end Sys2Proof.Tests
end

section
/-!
PROOFS. The scope of the model (00_scope.md): what the turn list gives, and what a step that fetches an operation runs.
-/

namespace Sys2Proof.Machine

/-! ### Whose turn it is (log 8) -/

/-- With no turns listed the engine moves, on the state as it is. -/
theorem State.takeTurn_of_nil {s : State} (h : s.turns = []) : s.takeTurn = (.engine, s) := by
  simp [State.takeTurn, h]

/-- With turns listed the first one moves, and it leaves the list. -/
theorem State.takeTurn_of_cons {s : State} {t : Turn} {ts : List Turn} (h : s.turns = t :: ts) :
    s.takeTurn = (t, s.setTurns ts) := by
  simp [State.takeTurn, h]

/-! ### What a step runs, once it has fetched an operation (R11, R23) -/

/-- On the engine's turn a step runs the operation it fetched. -/
theorem step_of_engine_turn {s s' : State} {i : Instr} (hi : s.fetch = .ok i) (ht : s.takeTurn = (.engine, s')) :
    step s = exec i s' := by
  simp [step, hi, ht]

/-- On the host's turn a step is the host's action, whichever operation was fetched. -/
theorem step_of_host_turn {s s' : State} {i : Instr} {a : HostAction} (hi : s.fetch = .ok i)
    (ht : s.takeTurn = (.host a, s')) : step s = performHost a s' := by
  simp [step, hi, ht]

/-- Settles O5: a legal `ERR` value and a code that decodes make the fetch succeed, and the turn list then says whose step it
is. -/
theorem stepRunsTheOperationInPhase : Obligations.StepRunsTheOperationInPhase := by
  intro s i herr hphase
  have hi : s.fetch = .ok i := State.fetch_eq_ok.mpr ⟨herr, hphase⟩
  refine ⟨?silent, ?engine, ?host⟩
  case silent => exact fun h => step_of_engine_turn hi (State.takeTurn_of_nil h)
  case engine => exact fun _ h => step_of_engine_turn hi (State.takeTurn_of_cons h)
  case host => exact fun _ _ h => step_of_host_turn hi (State.takeTurn_of_cons h)

end Sys2Proof.Machine
end

section
/-!
PROOFS. The state of the block (10_state.md): what one step can do to the registers, the register file, the invariant.
-/

namespace Sys2Proof.Machine

/-! ### What one step can be -/

/-- A step that answers a next state is the operation in `PHASE` or a host action, on the state without the turn taken. -/
theorem step_next_setTurns {s t : State} (h : step s = .next t) :
    ∃ ts, (∃ i, s.phase = encode i ∧ s.takeTurn.1 = .engine ∧ exec i (s.setTurns ts) = .next t) ∨
      ∃ a, s.takeTurn.1 = .host a ∧ performHost a (s.setTurns ts) = .next t := by
  obtain ⟨ts, hts⟩ := s.takeTurn_state
  obtain ⟨i, hfetch, ⟨hturn, hexec⟩ | ⟨a, hturn, hhost⟩⟩ := step_next h
  · exact ⟨ts, .inl ⟨i, decode_eq_ok.1 (State.fetch_eq_ok.1 hfetch).2, hturn, hts ▸ hexec⟩⟩
  · exact ⟨ts, .inr ⟨a, hturn, hts ▸ hhost⟩⟩

/-! ### The register `ERR` (R27) -/

theorem errCode_toNat (value : Byte) : (errCode value).toNat = value.toNat % 16 := by
  simp [errCode, BitVec.extractLsb'_toNat]

theorem errCause_toNat (value : Byte) : (errCause value).toNat = value.toNat / 16 := by
  have := value.isLt
  simp only [errCause, BitVec.extractLsb'_toNat, Nat.shiftRight_eq_div_pow]
  omega

theorem errValue_toNat (cause code : BitVec 4) : (errValue cause code).toNat = 16 * cause.toNat + code.toNat := by
  rw [errValue, BitVec.toNat_append, ← Nat.shiftLeft_add_eq_or_of_lt code.isLt, Nat.shiftLeft_eq, Nat.mul_comm]

@[simp] theorem errCode_errValue (cause code : BitVec 4) : errCode (errValue cause code) = code := by
  apply BitVec.eq_of_toNat_eq
  rw [errCode_toNat, errValue_toNat]
  omega

@[simp] theorem errCause_errValue (cause code : BitVec 4) : errCause (errValue cause code) = cause := by
  apply BitVec.eq_of_toNat_eq
  rw [errCause_toNat, errValue_toNat]
  omega

/-- The values of `ERR` a step accepts, in terms of its two fields (R27, U17; log 11). -/
theorem errValueWf_iff {value : Byte} : errValueWf value = true ↔
    ((errCode value).toNat ≤ 2 ∧ (errCause value).toNat = 0) ∨
    ((errCode value).toNat = 3 ∧ 1 ≤ (errCause value).toNat ∧ (errCause value).toNat ≤ 5) := by
  simp [errValueWf, errCode_toNat, errCause_toNat, and_assoc]

/-- Settles O4: none of the reserved values passes the check with which a step fetches its operation. -/
theorem reservedErrValueHasNoStep : Obligations.ReservedErrValueHasNoStep := by
  intro s hreserved
  have hwf : errValueWf s.err = false := by
    rw [Bool.eq_false_iff, Ne, errValueWf_iff]
    simp only [BitVec.toNat_ne, BitVec.toNat_ofNat] at hreserved
    omega
  simp [step, State.fetch, hwf]

/-! ### The placed word (log 12) -/

/-- A word of the opcode table that stands for an operation carries that operation's code. -/
theorem ofNat_eq_encode_of_decodeTableWord {nbits w : Nat} {i : Instr} (h : decodeTableWord nbits w = some i) :
    BitVec.ofNat 4 w = encode i := by
  unfold decodeTableWord at h
  split at h
  · split at h
    · cases h; exact decode_eq_ok.1 ‹_›
    · cases h
  · cases h

/-- Settles O6: the placed word is fetched, the turn placed with it is the engine's, and taking it restores the list. -/
theorem fetchWordRunsItsOperation : Obligations.FetchWordRunsItsOperation := by
  intro s nbits w i hw
  have hcode := ofNat_eq_encode_of_decodeTableWord hw
  have herr : errValueWf (if errValueWf s.err then s.err else 0) = true := by
    split
    · assumption
    · decide
  have hfetch : (s.withFetchWord nbits w).fetch = .ok i := State.fetch_eq_ok.2 ⟨herr, decode_eq_ok.2 hcode⟩
  rw [step_of_engine_turn hfetch (State.takeTurn_of_cons rfl), ← hcode]
  rfl

/-! ### The register file (R24, R25, R32) -/

/-- Settles O35: each of the sixteen indices names its register, and the read returns it. -/
theorem registerReadsFollowTheMap : Obligations.RegisterReadsFollowTheMap := by
  intro s
  exact ⟨rfl, rfl, rfl, rfl, rfl, rfl, rfl, rfl, rfl, rfl, rfl, rfl, rfl, rfl, rfl, rfl⟩

theorem State.inPhase_iff {s : State} {i : Instr} : s.inPhase i = true ↔ s.phase = encode i := by
  simp [State.inPhase]

/-- The four writes R32 speaks of, in IDL: each sets its register and nothing else. -/
theorem performHost_wr_dimension_of_idle {s : State} (v : Half) (h : s.phase = 0x0#4) :
    performHost (.wr 0x3#4 v) s = .next { s with width := v } ∧
    performHost (.wr 0x4#4 v) s = .next { s with height := v } ∧
    performHost (.wr 0x5#4 v) s = .next { s with lwidth := v } ∧
    performHost (.wr 0x6#4 v) s = .next { s with lheight := v } := by
  have hidle : s.inPhase .idl = true := State.inPhase_iff.2 h
  simp [performHost, Reg.ofIndex, State.writeRegister, hidle]

/-- Settles O37: by the register an index names, and for the dimensions by whether `PHASE` is IDL. -/
theorem registerWritesFollowTheMap : Obligations.RegisterWritesFollowTheMap := by
  intro s v
  refine ⟨performHost_wr_dimension_of_idle v, fun hphase index hindex => ?elsewhere, fun index hindex => ?readOnly⟩
  case elsewhere =>
    have hidle : ¬ s.inPhase .idl = true := mt State.inPhase_iff.1 hphase
    simp only [List.mem_cons, List.not_mem_nil, or_false] at hindex
    rcases hindex with rfl | rfl | rfl | rfl <;> simp [performHost, Reg.ofIndex, State.writeRegister, hidle]
  case readOnly =>
    simp only [List.mem_cons, List.not_mem_nil, or_false] at hindex
    rcases hindex with rfl | rfl | rfl | rfl | rfl | rfl | rfl | rfl | rfl | rfl | rfl <;> rfl

/-- Settles O36: `STATUS` depends on `PHASE` alone, and each of the sixteen values of `PHASE` gives the flags listed. -/
theorem statusFlagsAreFunctionsOfPhase : Obligations.StatusFlagsAreFunctionsOfPhase := by
  intro s
  simp only [State.status, State.busy, State.done, State.faulted, State.inPhase]
  generalize s.phase = phase
  revert phase
  decide

/-! ### PLT outside the frame (R36, R53) -/

/-- Settles O26: one of the two bounds of `State.tileInFrame` fails. -/
theorem pltStopsOutsideTheFrame : Obligations.PltStopsOutsideTheFrame := by
  intro s hout
  have houtside : ¬ s.tileInFrame = true := by
    simp only [State.tileInFrame, Bool.and_eq_true, decide_eq_true_eq]
    omega
  exact if_neg houtside

/-! ### Which operations write which registers -/

/-- However the position advances, only `TX`, `TY` and `PHASE` are written (R122). -/
theorem State.advance_eq (s : State) : ∃ x y i, s.advance = (s.setPosition x y).goTo i := by
  rcases s.advance_cases with ⟨-, e⟩ | ⟨-, -, e⟩ | ⟨-, -, e⟩
  · exact ⟨_, _, _, e⟩
  · exact ⟨_, _, _, e⟩
  · exact ⟨s.tx, s.ty, .mir, e⟩

/-- What an operation that answers a next state does to the registers that few write: the dimensions stay; `ERR` stays, unless
CHK raises; the record of the load stays, unless LDT loads (R79). -/
theorem exec_next_registers {i : Instr} {s t : State} (h : exec i s = .next t) :
    (t.width = s.width ∧ t.height = s.height ∧ t.lwidth = s.lwidth ∧ t.lheight = s.lheight) ∧
    (t.err = s.err ∨ i = .chk ∧ ∃ k, s.dimensionCause = some k ∧ t = s.raiseInvalidDimensions k) ∧
    (t.tileWritten = s.tileWritten ∨ i = .ldt ∧ 64 ≤ s.input.length ∧ t.tileWritten = true) := by
  cases i
  case idl => cases h; simp
  case chk =>
    rcases execChk_next h with ⟨-, rfl⟩ | ⟨k, hk, rfl⟩
    · simp
    · exact ⟨by simp, .inr ⟨rfl, k, hk, rfl⟩, by simp⟩
  case ldt =>
    rcases execLdt_next h with ⟨-, rfl⟩ | ⟨hlong, loaded, -, rfl⟩
    · simp
    · simp [hlong]
  case rot => obtain rfl := State.stage_next h; simp
  case qsw => obtain rfl := State.stage_next h; simp
  case mcs => obtain rfl := State.stage_next h; simp
  case rgs => obtain rfl := State.stage_next h; simp
  case plt =>
    obtain ⟨-, rfl⟩ := execPlt_next h
    obtain ⟨x, y, following, e⟩ := (s.setFrame (s.frame.writeAll s.tileWrites)).advance_eq
    simp [e]
  case mir => obtain ⟨colours, -, rfl⟩ := execMir_next h; simp
  case crp => cases h; simp
  case hlt => cases h; simp
  case err => cases h; simp

/-- What a host action that answers a next state does to the same registers: a reset clears them, and no other action changes
`ERR` or the record of the load; outside IDL none changes a dimension either (R32, R65). -/
theorem performHost_next_registers {a : HostAction} {s t : State} (h : performHost a s = .next t) :
    (a.resets = true ∧ t = s.resetBlock) ∨
    (a.resets = false ∧ t.err = s.err ∧ t.tileWritten = s.tileWritten ∧
      (s.phase ≠ encode .idl →
        t.width = s.width ∧ t.height = s.height ∧ t.lwidth = s.lwidth ∧ t.lheight = s.lheight)) := by
  rcases performHost_next h with ⟨ha, -, r, rfl⟩ | ⟨v, rfl, rfl⟩ | ⟨ha, -, rfl⟩ | ⟨ha, -, -, rfl⟩ | ⟨ha, -, rfl⟩ |
    ⟨ha, -, hidle, v, rfl | rfl | rfl | rfl⟩
  · exact .inr ⟨ha, by simp⟩
  · exact .inr ⟨rfl, by simp [State.push]⟩
  · exact .inl ⟨ha, rfl⟩
  · exact .inr ⟨ha, by simp⟩
  · exact .inr ⟨ha, by simp⟩
  all_goals exact .inr ⟨ha, by simp [hidle]⟩

/-- Settles O46: the operations keep the dimensions, and the host reaches them outside IDL by a reset only. -/
theorem dimensionsAreFixedOutsideIdle : Obligations.DimensionsAreFixedOutsideIdle := by
  refine ⟨fun s v => performHost_wr_dimension_of_idle v, fun s t hphase hstep hreset => ?_⟩
  obtain ⟨ts, ⟨i, -, -, hexec⟩ | ⟨a, hturn, hhost⟩⟩ := step_next_setTurns hstep
  · exact (exec_next_registers hexec).1
  · rcases performHost_next_registers hhost with ⟨ha, -⟩ | ⟨-, -, -, hdims⟩
    · simp [hreset a hturn] at ha
    · exact hdims hphase

/-- Settles O47: of the operations only CHK writes `ERR`, when it raises; of the host's actions only a reset does. -/
theorem errChangesOnlyInChkOrReset : Obligations.ErrChangesOnlyInChkOrReset := by
  intro s t hstep hchange
  obtain ⟨ts, ⟨i, hphase, hturn, hexec⟩ | ⟨a, hturn, hhost⟩⟩ := step_next_setTurns hstep
  · obtain ⟨-, hsame | ⟨rfl, k, hcause, rfl⟩, -⟩ := exec_next_registers hexec
    · exact absurd hsame hchange
    · have hk := State.dimensionCause_eq_some hcause
      exact .inl ⟨hphase, hturn, by simp [encode, hk]⟩
  · rcases performHost_next_registers hhost with ⟨ha, rfl⟩ | ⟨-, hsame, -⟩
    · exact .inr ⟨rfl, a, hturn, ha⟩
    · exact absurd hsame hchange

/-! ### The phase of an operation -/

theorem encode_inj {i j : Instr} : encode i = encode j ↔ i = j := by
  refine ⟨fun h => ?_, congrArg encode⟩
  have hi : decode (encode i) = .ok i := decode_eq_ok.2 rfl
  rw [h, decode_eq_ok.2 rfl] at hi
  exact (Except.ok.inj hi).symm

/-- The phases of `State.inFrame`, by their operation: LDT to CRP, and HLT. -/
abbrev InFrame (i : Instr) : Prop := 2 ≤ (encode i).toNat ∧ (encode i).toNat ≤ 10

theorem State.inFrame_iff {s : State} {i : Instr} (hphase : s.phase = encode i) : s.inFrame ↔ InFrame i := by
  rw [State.inFrame, hphase]

theorem ne_err_of_inFrame {i : Instr} (h : InFrame i) : i ≠ .err := by
  rintro rfl
  exact absurd h (by decide)

/-- The operations that read `T` are those with the codes 3 to 7. -/
theorem readsTile_iff {i : Instr} : readsTile i = true ↔ 3 ≤ (encode i).toNat ∧ (encode i).toNat ≤ 7 := by
  cases i <;> decide

/-- ROT, QSW, MCS, RGS and PLT run inside a frame, between LDT and MIR. -/
theorem inFrame_of_readsTile {i : Instr} (h : readsTile i = true) :
    InFrame i ∧ (encode i).toNat < 8 ∧ i ≠ .ldt ∧ i ≠ .hlt := by
  obtain ⟨hlow, hhigh⟩ := readsTile_iff.1 h
  refine ⟨⟨by omega, by omega⟩, by omega, ?_, ?_⟩ <;> (rintro rfl; cases h)

/-! ### The tile buffer is loaded before it is read (R22) -/

theorem State.Inv.tileWritten_of_readsTile {s : State} {i : Instr} (h : s.Inv) (hphase : s.phase = encode i)
    (hreads : readsTile i = true) : s.tileWritten = true := by
  obtain ⟨hframe, -, hldt, -⟩ := inFrame_of_readsTile hreads
  exact h.tile_written ((State.inFrame_iff hphase).2 hframe) (by rwa [hphase, Ne, encode_inj])

theorem State.Inv.readsUnwrittenTile_eq_false {s : State} (h : s.Inv) : s.readsUnwrittenTile = false := by
  rcases hcode : decode s.phase with _ | i
  · simp [State.readsUnwrittenTile, hcode]
  · cases hreads : readsTile i
    · simp [State.readsUnwrittenTile, hcode, hreads]
    · simp [State.readsUnwrittenTile, h.tileWritten_of_readsTile (decode_eq_ok.1 hcode) hreads]

/-- Settles O18: the invariant keeps `T` written where it is read; the record is made by a load and unmade by a reset. -/
theorem tileIsLoadedBeforeItIsRead : Obligations.TileIsLoadedBeforeItIsRead := by
  refine ⟨fun s => State.Inv.readsUnwrittenTile_eq_false, fun i => ?operands, rfl, fun s t h => ?reset, fun s hlong => ?load,
    fun s t hstep hchange => ?changes⟩
  case operands => cases i <;> decide
  case reset => cases h; rfl
  case load => exact ⟨_, dif_neg (Nat.not_lt.2 hlong), rfl⟩
  case changes =>
    obtain ⟨ts, ⟨i, hphase, hturn, hexec⟩ | ⟨a, hturn, hhost⟩⟩ := step_next_setTurns hstep
    · obtain ⟨-, -, hsame | ⟨rfl, hlong, hmark⟩⟩ := exec_next_registers hexec
      · exact absurd hsame hchange
      · exact .inl ⟨hphase, hturn, hlong, hmark⟩
    · rcases performHost_next_registers hhost with ⟨ha, rfl⟩ | ⟨-, -, hsame, -⟩
      · exact .inr ⟨rfl, a, hturn, ha⟩
      · exact absurd hsame hchange

end Sys2Proof.Machine
end

section
/-!
PROOFS. Every step keeps the invariant of the block (10_state.md).
-/

namespace Sys2Proof.Machine

/-! ### Which cells a list of writes leaves written -/

theorem Memory.isSome_read_writeAll {ws : List (Nat × Colour)} {m : Memory} {a : Nat} :
    ((m.writeAll ws).read a).isSome = true ↔ a ∈ ws.map (fun p => p.1) ∨ (m.read a).isSome = true := by
  induction ws generalizing m with
  | nil => simp [Memory.writeAll]
  | cons w ws ih =>
    rw [Memory.writeAll, ih, Memory.read_write, List.map_cons, List.mem_cons]
    split <;> simp [*]

/-- PLT writes only cells of the frame (R53, R121). -/
theorem State.tileWrites_inside {s : State} (h : s.tileInFrame = true) {p : Nat × Colour} (hp : p ∈ s.tileWrites) :
    p.1 ∈ s.frameCells := by
  obtain ⟨c, r, rfl⟩ := State.mem_tileWrites.1 hp
  simp only [State.tileInFrame, Bool.and_eq_true, decide_eq_true_eq] at h
  exact State.mem_frameCells.2 ⟨_, _, by omega, by omega, rfl⟩

/-! ### Which cells count as placed -/

/-- From LDT to PLT the placed cells are those of the tiles before the current one. -/
theorem State.placed_iff {s : State} {i : Instr} (hphase : s.phase = encode i) (h : (encode i).toNat < 8) {x y : Nat} :
    s.Placed x y ↔ y / 8 < s.ty.toNat ∨ (y / 8 = s.ty.toNat ∧ x / 8 < s.tx.toNat) := by
  simp [State.Placed, hphase, Nat.not_le.2 h]

/-- From MIR on every cell of the frame is a placed one. -/
theorem State.placed_of_le {s : State} {i : Instr} (hphase : s.phase = encode i) (h : 8 ≤ (encode i).toNat) {x y : Nat} :
    s.Placed x y := by
  simp [State.Placed, hphase, h]

/-! ### The invariant outside a frame: nothing has been done yet -/

theorem State.Inv.err_zero {s : State} (h : s.Inv) {i : Instr} (hphase : s.phase = encode i) (hi : i ≠ .err) : s.err = 0 := by
  have herr := h.err_cause
  rwa [if_neg (by rwa [hphase, encode_inj])] at herr

theorem State.Inv.view_closed {s : State} (h : s.Inv) {i : Instr} (hphase : s.phase = encode i) (hi : i ≠ .hlt) :
    s.vw = 0 ∧ s.vh = 0 := by
  have hview := h.view
  rwa [if_neg (by rwa [hphase, encode_inj])] at hview

/-- What reset leaves and what IDL, CHK and ERR keep (R171, R37). -/
structure State.Untouched (s : State) : Prop where
  frame : s.frame = []
  tileWritten : s.tileWritten = false
  position : s.tx = 0 ∧ s.ty = 0
  offset : s.offx = 0 ∧ s.offy = 0
  view : s.vw = 0 ∧ s.vh = 0

theorem State.Inv.untouched {s : State} (h : s.Inv) {i : Instr} (hphase : s.phase = encode i) (hout : ¬ InFrame i) :
    s.Untouched := by
  obtain ⟨hframe, hmark, htx, hty, hoffx, hoffy⟩ := h.before_frame (mt (State.inFrame_iff hphase).1 hout)
  exact ⟨hframe, hmark, ⟨htx, hty⟩, ⟨hoffx, hoffy⟩, h.view_closed hphase (by rintro rfl; exact hout (by decide))⟩

/-- Outside a frame the invariant is: `ERR` as it belongs to the phase, and nothing done yet. -/
theorem State.Untouched.inv {s : State} (h : s.Untouched) (i : Instr) (hphase : s.phase = encode i) (hout : ¬ InFrame i)
    (err : if i = .err then errCode s.err = 3#4 ∧ 1 ≤ (errCause s.err).toNat ∧ (errCause s.err).toNat ≤ 5 else s.err = 0) :
    s.Inv := by
  have hs : ¬ s.inFrame := mt (State.inFrame_iff hphase).1 hout
  constructor
  case phase_legal => rw [hphase]; cases i <;> rfl
  case err_cause => simpa only [hphase, encode_inj] using err
  case frame_wf => simp [h.frame, Memory.wf]
  case frame_inside => simp [h.frame]
  case before_frame => exact fun _ => ⟨h.frame, h.tileWritten, h.position.1, h.position.2, h.offset.1, h.offset.2⟩
  case offset_aligned => simp [h.offset]
  case last_tile => exact fun _ hin => absurd hin hs
  case view =>
    rw [if_neg]
    · exact h.view
    · rw [hphase, encode_inj]
      rintro rfl
      exact hout (by decide)
  all_goals exact fun hin => absurd hin hs

/-! ### The invariant inside a frame -/

/-- What holds in every phase from LDT to HLT alike. -/
structure State.Working (s : State) : Prop where
  err : s.err = 0
  frame_wf : s.frame.wf
  frame_inside : ∀ p ∈ s.frame, p.1 ∈ s.frameCells
  dims_legal : s.DimensionsLegal
  position : s.tx.toNat < s.tilesAcross ∧ s.ty.toNat < s.tilesDown
  offset_aligned : s.offx.toNat % 8 = 0 ∧ s.offx.toNat ≤ 65520 ∧ s.offy.toNat % 8 = 0 ∧ s.offy.toNat ≤ 65520

/-- The tile buffer holds the tile at the position: what a load makes true, until the position moves on. -/
structure State.Loaded (s : State) : Prop where
  tileWritten : s.tileWritten = true
  offset : s.offx.toNat = 8 * s.tx.toNat ∧ s.offy.toNat = 8 * s.ty.toNat

/-- Exactly the cells of the frame that count as placed are written (R66). -/
def State.Covered (s : State) : Prop :=
  ∀ x y, x < s.width.toNat → y < s.height.toNat → ((s.frame.read (cellAddress x y)).isSome = true ↔ s.Placed x y)

/-- The position is that of the last tile (R122). -/
def State.AtLastTile (s : State) : Prop := s.tx.toNat + 1 = s.tilesAcross ∧ s.ty.toNat + 1 = s.tilesDown

theorem State.Inv.working {s : State} (h : s.Inv) {i : Instr} (hphase : s.phase = encode i) (hi : InFrame i) : s.Working where
  err := h.err_zero hphase (ne_err_of_inFrame hi)
  frame_wf := h.frame_wf
  frame_inside p hp := State.mem_frameCells.2 (h.frame_inside p hp)
  dims_legal := h.dims_legal ((State.inFrame_iff hphase).2 hi)
  position := h.position ((State.inFrame_iff hphase).2 hi)
  offset_aligned := h.offset_aligned

/-- Writing cells of the frame keeps the frame buffer canonical and inside the frame. -/
theorem State.Working.setFrame_writeAll {s : State} (h : s.Working) {ws : List (Nat × Colour)}
    (hws : ∀ p ∈ ws, p.1 ∈ s.frameCells) : (s.setFrame (s.frame.writeAll ws)).Working :=
  { h with
    frame_wf := Memory.writeAll_wf _ h.frame_wf
    frame_inside := fun p hp => (Memory.mem_writeAll hp).elim (hws p) (h.frame_inside p) }

theorem State.Inv.loaded {s : State} (h : s.Inv) {i : Instr} (hphase : s.phase = encode i) (hi : InFrame i) (hldt : i ≠ .ldt) :
    s.Loaded := by
  have hs : s.inFrame := (State.inFrame_iff hphase).2 hi
  have hne : s.phase ≠ encode .ldt := by rwa [hphase, Ne, encode_inj]
  exact ⟨h.tile_written hs hne, h.offset hs hne⟩

/-- The invariant inside a frame, from what all its phases share and what each adds. -/
theorem State.Working.inv {s : State} (h : s.Working) (i : Instr) (hphase : s.phase = encode i) (hi : InFrame i)
    (loaded : i ≠ .ldt → s.Loaded) (covered : s.Covered) (last : 8 ≤ (encode i).toNat → s.AtLastTile)
    (closed : i ≠ .hlt → s.vw = 0 ∧ s.vh = 0) (opened : i = .hlt → s.vw = s.lwidth ∧ s.vh = s.lheight) : s.Inv where
  phase_legal := by rw [hphase]; cases i <;> rfl
  err_cause := by
    rw [hphase, if_neg (mt encode_inj.1 (ne_err_of_inFrame hi))]
    exact h.err
  frame_wf := h.frame_wf
  frame_inside p hp := State.mem_frameCells.1 (h.frame_inside p hp)
  before_frame hout := absurd ((State.inFrame_iff hphase).2 hi) hout
  tile_written _ hldt := (loaded fun e => hldt (e ▸ hphase)).tileWritten
  dims_legal _ := h.dims_legal
  position _ := h.position
  offset _ hldt := (loaded fun e => hldt (e ▸ hphase)).offset
  offset_aligned := h.offset_aligned
  coverage _ := covered
  last_tile h8 _ := last (hphase ▸ h8)
  view := by
    simp only [hphase, encode_inj]
    split
    next hhlt => exact opened hhlt
    next hhlt => exact closed hhlt

theorem State.Inv.covered {s : State} (h : s.Inv) {i : Instr} (hphase : s.phase = encode i) (hi : InFrame i) : s.Covered :=
  h.coverage ((State.inFrame_iff hphase).2 hi)

/-- From MIR on every cell of the frame is written, and the position is the last tile's. -/
theorem State.Inv.frame_complete {s : State} (h : s.Inv) {i : Instr} (hphase : s.phase = encode i)
    (hi : 8 ≤ (encode i).toNat ∧ (encode i).toNat ≤ 10) : s.FrameWritten ∧ s.AtLastTile := by
  have hin : InFrame i := ⟨by omega, hi.2⟩
  exact ⟨fun x y hx hy => (h.covered hphase hin x y hx hy).2 (State.placed_of_le hphase hi.1),
    h.last_tile (hphase ▸ hi.1) ((State.inFrame_iff hphase).2 hin)⟩

/-! ### CHK and LDT -/

theorem execChk_keeps_inv {s t : State} (h : s.Inv) (hphase : s.phase = encode .chk) (hexec : execChk s = .next t) :
    t.Inv := by
  have hs := h.untouched hphase (by decide)
  rcases execChk_next hexec with ⟨hdims, rfl⟩ | ⟨k, hk, rfl⟩
  · have hgrid : 0 < s.tilesAcross ∧ 0 < s.tilesDown := by unfold State.tilesAcross State.tilesDown; omega
    have ht : (((s.setPosition 0 0).setView 0 0).goTo .ldt).Working := {
      err := h.err_zero hphase (by decide)
      frame_wf := h.frame_wf
      frame_inside := fun p hp => State.mem_frameCells.2 (h.frame_inside p hp)
      dims_legal := hdims
      position := hgrid
      offset_aligned := h.offset_aligned }
    refine ht.inv .ldt rfl (by decide) (absurd rfl) (fun x y _ _ => ?_) (absurd · (by decide)) (fun _ => ⟨rfl, rfl⟩) nofun
    rw [State.placed_iff (State.goTo_phase ..) (by decide)]
    simp [hs.frame]
  · have ht : (s.raiseInvalidDimensions k).Untouched := { hs with }
    refine ht.inv .err rfl (by decide) ?_
    simpa using State.dimensionCause_eq_some hk

theorem execLdt_keeps_inv {s t : State} (h : s.Inv) (hphase : s.phase = encode .ldt) (hexec : execLdt s = .next t) :
    t.Inv := by
  rcases execLdt_next hexec with ⟨-, rfl⟩ | ⟨-, tile, -, rfl⟩
  · exact h
  have hs := h.working hphase (by decide)
  have hx := offset_toNat s.tx
  have hy := offset_toNat s.ty
  have ht : ((((s.loadTile tile).setInput (s.input.drop 64)).setOffset (8 * s.tx.setWidth 16)
      (8 * s.ty.setWidth 16)).goTo .rot).Working := { hs with
    offset_aligned := by
      have := s.width.isLt
      have := s.height.isLt
      obtain ⟨htx, hty⟩ := hs.position
      unfold State.tilesAcross at htx
      unfold State.tilesDown at hty
      simp only [State.goTo_offx, State.goTo_offy, State.setOffset_offx, State.setOffset_offy]
      omega }
  refine ht.inv .rot rfl (by decide) (fun _ => ⟨rfl, hx, hy⟩) (fun x y hxw hyh => ?_) (absurd · (by decide))
    (fun _ => h.view_closed hphase (by decide)) nofun
  rw [State.placed_iff (State.goTo_phase ..) (by decide)]
  exact (h.covered hphase (by decide) x y hxw hyh).trans (State.placed_iff hphase (by decide))

/-! ### The four stages -/

/-- A stage goes from one operation that reads `T` to another, and the invariant says nothing of the colours in `T`. -/
theorem State.stage_keeps_inv {s t : State} {source : Fin 8 → Fin 8 → Fin 8 × Fin 8} {i following : Instr} (h : s.Inv)
    (hphase : s.phase = encode i) (hi : readsTile i = true) (hfollowing : readsTile following = true)
    (hexec : s.stage source following = .next t) : t.Inv := by
  obtain rfl := State.stage_next hexec
  obtain ⟨hframe, h8, hldt, hhlt⟩ := inFrame_of_readsTile hi
  obtain ⟨hframe', h8', -, hhlt'⟩ := inFrame_of_readsTile hfollowing
  generalize s.tile.permute source = tile
  have ht : ((s.setTile tile).goTo following).Working := { h.working hphase hframe with }
  refine ht.inv following rfl hframe' (fun _ => { h.loaded hphase hframe hldt with }) (fun x y hx hy => ?_)
    (fun h8 => by omega) (fun _ => h.view_closed hphase hhlt) (absurd · hhlt')
  rw [State.placed_iff (State.goTo_phase ..) h8']
  exact (h.covered hphase hframe x y hx hy).trans (State.placed_iff hphase h8)

/-! ### PLT -/

/-- The writes of PLT are the cells of the tile at the position. -/
theorem State.Loaded.cellAddress_mem_tileWrites {s : State} (h : s.Loaded) {x y : Nat} (hx : x < s.width.toNat) :
    cellAddress x y ∈ s.tileWrites.map (fun p => p.1) ↔ x / 8 = s.tx.toNat ∧ y / 8 = s.ty.toNat := by
  obtain ⟨hoffx, hoffy⟩ := h.offset
  have := s.offx.isLt
  have := s.width.isLt
  simp only [List.mem_map, State.mem_tileWrites]
  constructor
  · rintro ⟨_, ⟨c, r, rfl⟩, e⟩
    obtain ⟨ex, ey⟩ := (cellAddress_inj (by omega) (by omega)).1 e
    omega
  · rintro ⟨ex, ey⟩
    exact ⟨_, ⟨⟨x % 8, by omega⟩, ⟨y % 8, by omega⟩, rfl⟩,
      (cellAddress_inj (by simp only; omega) (by omega)).2 ⟨by simp only; omega, by simp only; omega⟩⟩

/-- After PLT's writes exactly the cells up to the current tile are written, in grid order. -/
theorem State.Inv.isSome_read_place {s : State} (h : s.Inv) (hphase : s.phase = encode .plt) {x y : Nat}
    (hx : x < s.width.toNat) (hy : y < s.height.toNat) :
    ((s.frame.writeAll s.tileWrites).read (cellAddress x y)).isSome = true ↔
      y / 8 < s.ty.toNat ∨ (y / 8 = s.ty.toNat ∧ x / 8 < s.tx.toNat + 1) := by
  rw [Memory.isSome_read_writeAll, (h.loaded hphase (by decide) (by decide)).cellAddress_mem_tileWrites hx,
    h.covered hphase (by decide) x y hx hy, State.placed_iff hphase (by decide)]
  omega

/-- The advance from a tile that has just been placed: its cells are the current tile's at the next position (R122). -/
theorem State.advance_inv {s : State} (hs : s.Working) (hloaded : s.Loaded) (hview : s.vw = 0 ∧ s.vh = 0)
    (hplaced : ∀ x y, x < s.width.toNat → y < s.height.toNat → ((s.frame.read (cellAddress x y)).isSome = true ↔
      y / 8 < s.ty.toNat ∨ (y / 8 = s.ty.toNat ∧ x / 8 < s.tx.toNat + 1))) : s.advance.Inv := by
  obtain ⟨htx, hty⟩ := hs.position
  obtain ⟨-, hwidth8, -, hheight8, -⟩ := hs.dims_legal
  have hwidth : s.width.toNat = 8 * s.tilesAcross := by unfold State.tilesAcross; omega
  have hheight : s.height.toNat = 8 * s.tilesDown := by unfold State.tilesDown; omega
  have := s.width.isLt
  have := s.height.isLt
  rcases s.advance_cases with ⟨hnext, e⟩ | ⟨hrow, hnext, e⟩ | ⟨hrow, hcolumn, e⟩ <;> rw [e]
  · have hsucc := tileCount_succ (by omega) hnext
    have ht : ((s.setPosition (s.tx + 1) s.ty).goTo .ldt).Working := { hs with
      position := ⟨hsucc ▸ hnext, hty⟩ }
    refine ht.inv .ldt rfl (by decide) (absurd rfl) (fun x y hx hy => ?_) (absurd · (by decide)) (fun _ => hview) nofun
    rw [State.placed_iff (State.goTo_phase ..) (by decide), State.goTo_tx, State.setPosition_tx, hsucc]
    exact hplaced x y hx hy
  · have hsucc := tileCount_succ (by omega) hnext
    have ht : ((s.setPosition 0 (s.ty + 1)).goTo .ldt).Working := { hs with
      position := ⟨Nat.zero_lt_of_lt htx, hsucc ▸ hnext⟩ }
    refine ht.inv .ldt rfl (by decide) (absurd rfl) (fun x y hx hy => ?_) (absurd · (by decide)) (fun _ => hview) nofun
    rw [State.placed_iff (State.goTo_phase ..) (by decide), State.goTo_tx, State.goTo_ty, State.setPosition_tx,
      State.setPosition_ty, hsucc]
    refine (hplaced x y hx hy).trans ?_
    have hzero : (0 : TileCount).toNat = 0 := rfl
    rw [State.goTo_width, State.setPosition_width] at hx
    omega
  · have ht : (s.goTo .mir).Working := { hs with }
    refine ht.inv .mir rfl (by decide) (fun _ => { hloaded with }) (fun x y hx hy => ?_) (fun _ => ⟨?_, ?_⟩)
      (fun _ => hview) nofun
    · refine iff_of_true ((hplaced x y hx hy).2 ?_) (State.placed_of_le (State.goTo_phase ..) (by decide))
      simp only [State.goTo_width, State.goTo_height] at hx hy
      omega
    · exact Nat.le_antisymm htx hrow
    · exact Nat.le_antisymm hty hcolumn

theorem execPlt_keeps_inv {s t : State} (h : s.Inv) (hphase : s.phase = encode .plt) (hexec : execPlt s = .next t) :
    t.Inv := by
  obtain ⟨hinside, rfl⟩ := execPlt_next hexec
  have hs := h.working hphase (by decide)
  have hplaced := @State.Inv.isSome_read_place s h hphase
  have hwritten := hs.setFrame_writeAll fun p => State.tileWrites_inside hinside
  generalize s.frame.writeAll s.tileWrites = placed at hplaced hwritten ⊢
  exact State.advance_inv hwritten { h.loaded hphase (by decide) (by decide) with } (h.view_closed hphase (by decide)) @hplaced

/-! ### MIR and CRP -/

theorem execMir_keeps_inv {s t : State} (h : s.Inv) (hphase : s.phase = encode .mir) (hexec : execMir s = .next t) :
    t.Inv := by
  obtain ⟨colours, -, rfl⟩ := execMir_next hexec
  obtain ⟨hcomplete, hlast⟩ := h.frame_complete hphase (by decide)
  have hs := h.working hphase (by decide)
  have hwritten := hs.setFrame_writeAll fun p (hp : p ∈ s.frameCells.zip colours) => (List.of_mem_zip hp).1
  generalize s.frameCells.zip colours = writes at hwritten ⊢
  have ht : ((s.setFrame (s.frame.writeAll writes)).goTo .crp).Working := { hwritten with }
  exact ht.inv .crp rfl (by decide) (fun _ => { h.loaded hphase (by decide) (by decide) with })
    (fun x y hx hy => iff_of_true (Memory.isSome_read_writeAll.2 (.inr (hcomplete x y hx hy)))
      (State.placed_of_le (State.goTo_phase ..) (by decide)))
    (fun _ => hlast) (fun _ => h.view_closed hphase (by decide)) nofun

theorem execCrp_keeps_inv {s t : State} (h : s.Inv) (hphase : s.phase = encode .crp) (hexec : execCrp s = .next t) :
    t.Inv := by
  cases hexec
  obtain ⟨hcomplete, hlast⟩ := h.frame_complete hphase (by decide)
  have ht : ((s.setView s.lwidth s.lheight).goTo .hlt).Working := { h.working hphase (by decide) with }
  exact ht.inv .hlt rfl (by decide) (fun _ => { h.loaded hphase (by decide) (by decide) with })
    (fun x y hx hy => iff_of_true (hcomplete x y hx hy)
      (State.placed_of_le (State.goTo_phase ..) (by decide)))
    (fun _ => hlast) (absurd rfl) (fun _ => ⟨rfl, rfl⟩)

theorem exec_keeps_inv {i : Instr} {s t : State} (h : s.Inv) (hphase : s.phase = encode i) (hexec : exec i s = .next t) :
    t.Inv := by
  cases i
  case idl => cases hexec; exact h
  case chk => exact execChk_keeps_inv h hphase hexec
  case ldt => exact execLdt_keeps_inv h hphase hexec
  case rot => exact State.stage_keeps_inv h hphase rfl rfl hexec
  case qsw => exact State.stage_keeps_inv h hphase rfl rfl hexec
  case mcs => exact State.stage_keeps_inv h hphase rfl rfl hexec
  case rgs => exact State.stage_keeps_inv h hphase rfl rfl hexec
  case plt => exact execPlt_keeps_inv h hphase hexec
  case mir => exact execMir_keeps_inv h hphase hexec
  case crp => exact execCrp_keeps_inv h hphase hexec
  case hlt => cases hexec; exact h
  case err => cases hexec; exact h

/-! ### The host -/

theorem State.resetBlock_inv (s : State) : s.resetBlock.Inv := by
  have ht : s.resetBlock.Untouched := ⟨rfl, rfl, ⟨rfl, rfl⟩, ⟨rfl, rfl⟩, ⟨rfl, rfl⟩⟩
  exact ht.inv .idl rfl (by decide) rfl

theorem performHost_keeps_inv {a : HostAction} {s t : State} (h : s.Inv) (hhost : performHost a s = .next t) : t.Inv := by
  rcases performHost_next hhost with ⟨-, -, r, rfl⟩ | ⟨v, -, rfl⟩ | ⟨-, -, rfl⟩ | ⟨-, -, hidle, rfl⟩ | ⟨-, -, rfl⟩ |
    ⟨-, -, hidle, v, ht⟩
  · exact { h with }
  · exact { h with }
  · exact s.resetBlock_inv
  · have ht : (s.goTo .chk).Untouched := { h.untouched hidle (by decide) with }
    exact ht.inv .chk rfl (by decide) (h.err_zero hidle (by decide))
  · exact h
  · have hs := h.untouched hidle (by decide)
    have herr := h.err_zero hidle (by decide)
    rcases ht with rfl | rfl | rfl | rfl <;>
      exact State.Untouched.inv { hs with } .idl hidle (by decide) herr

/-- Settles O51: taking a turn touches nothing the invariant speaks of; then by what the engine, and what the host, can do. -/
theorem everyStepKeepsTheInvariant : Obligations.EveryStepKeepsTheInvariant := by
  intro s t h hstep
  obtain ⟨ts, hmove⟩ := step_next_setTurns hstep
  have hs : (s.setTurns ts).Inv := { h with }
  rcases hmove with ⟨i, hphase, -, hexec⟩ | ⟨a, -, hhost⟩
  · exact exec_keeps_inv hs hphase hexec
  · exact performHost_keeps_inv hs hhost

end Sys2Proof.Machine
end

section
/-!
PROOFS. The memory of the block (20_memory.md): linear addresses, the order of `IN`, what the host's actions reach, and that
colours do not steer the engine.
-/

namespace Sys2Proof.Machine

/-! ### Row-major addresses (R56) -/

/-- The model numbers its cells as R56 does those of a frame 65536 pixels wide (log 5). -/
theorem cellAddress_eq_linearAddress (x y : Nat) : cellAddress x y = linearAddress 65536 x y := rfl

theorem linearAddress_lt_of_row_lt {w x y x' y' : Nat} (hx : x < w) (hy : y < y') :
    linearAddress w x y < linearAddress w x' y' :=
  calc y * w + x < y * w + w := Nat.add_lt_add_left hx _
    _ = (y + 1) * w := (Nat.succ_mul y w).symm
    _ ≤ y' * w := Nat.mul_le_mul_right w hy
    _ ≤ y' * w + x' := Nat.le_add_right ..

/-- Row-major addresses are ordered by row, and within a row by column. -/
theorem linearAddress_lt_iff {w x y x' y' : Nat} (hx : x < w) (hx' : x' < w) :
    linearAddress w x y < linearAddress w x' y' ↔ y < y' ∨ y = y' ∧ x < x' := by
  rcases Nat.lt_trichotomy y y' with hy | rfl | hy
  · simp [linearAddress_lt_of_row_lt hx hy, hy]
  · simp [linearAddress]
  · have := linearAddress_lt_of_row_lt (x' := x) hx' hy
    omega

theorem linearAddress_inj {w x y x' y' : Nat} (hx : x < w) (hx' : x' < w) :
    linearAddress w x y = linearAddress w x' y' ↔ x = x' ∧ y = y' := by
  have hlt := linearAddress_lt_iff (y := y) (y' := y') hx hx'
  have hgt := linearAddress_lt_iff (y := y') (y' := y) hx' hx
  omega

theorem linearAddress_lt_area {w h x y : Nat} (hx : x < w) (hy : y < h) : linearAddress w x y < w * h := by
  have hend : linearAddress w x y < linearAddress w 0 h := linearAddress_lt_of_row_lt hx hy
  rwa [linearAddress, linearAddress, Nat.add_zero, Nat.mul_comm h w] at hend

/-- Settles O56: both numberings are row-major, the model's with rows of 65536 cells. -/
theorem linearAddressesNumberTheFrame : Obligations.LinearAddressesNumberTheFrame := by
  intro w h x y x' y' hw hh hx hy hx' hy'
  have harea : linearAddress w x y < w * h := linearAddress_lt_area hx hy
  have hcapacity : w * h ≤ 65528 * 65528 := Nat.mul_le_mul hw hh
  refine ⟨harea, by omega, linearAddress_inj hx hx', ?_⟩
  rw [cellAddress_eq_linearAddress, cellAddress_eq_linearAddress, linearAddress_lt_iff hx hx',
    linearAddress_lt_iff (by omega) (by omega)]

/-! ### What a step does to `IN` (R55, R63, R155) -/

/-- Of the operations only LDT reaches `IN`, when it loads. -/
theorem exec_next_input {i : Instr} {s t : State} (h : exec i s = .next t) :
    t.input = s.input ∨ i = .ldt ∧ 64 ≤ s.input.length ∧ t.input = s.input.drop 64 := by
  cases i
  case idl => cases h; exact .inl rfl
  case chk => rcases execChk_next h with ⟨-, rfl⟩ | ⟨k, -, rfl⟩ <;> simp
  case ldt =>
    rcases execLdt_next h with ⟨-, rfl⟩ | ⟨hlong, loaded, -, rfl⟩
    · simp
    · simp [hlong]
  case rot => obtain rfl := State.stage_next h; simp
  case qsw => obtain rfl := State.stage_next h; simp
  case mcs => obtain rfl := State.stage_next h; simp
  case rgs => obtain rfl := State.stage_next h; simp
  case plt =>
    obtain ⟨-, rfl⟩ := execPlt_next h
    obtain ⟨x, y, following, e⟩ := (s.setFrame (s.frame.writeAll s.tileWrites)).advance_eq
    simp [e]
  case mir => obtain ⟨colours, -, rfl⟩ := execMir_next h; simp
  case crp => cases h; simp
  case hlt => cases h; exact .inl rfl
  case err => cases h; exact .inl rfl

/-- Of the host's actions only a push and a reset reach `IN`. -/
theorem performHost_next_input {a : HostAction} {s t : State} (h : performHost a s = .next t) :
    t.input = s.input ∨ (∃ v, a = .push v ∧ t.input = s.input ++ [v]) ∨ a.resets = true ∧ t.input = [] := by
  rcases performHost_next h with ⟨-, -, r, rfl⟩ | ⟨v, rfl, rfl⟩ | ⟨ha, -, rfl⟩ | ⟨-, -, -, rfl⟩ | ⟨-, -, rfl⟩ |
    ⟨-, -, -, v, rfl | rfl | rfl | rfl⟩
  · exact .inl rfl
  · exact .inr (.inl ⟨v, rfl, rfl⟩)
  · exact .inr (.inr ⟨ha, rfl⟩)
  all_goals exact .inl rfl

/-- Settles O48: by who moves, and what that operation or action does to `IN`. -/
theorem inputKeepsItsOrder : Obligations.InputKeepsItsOrder := by
  intro s t hstep
  obtain ⟨ts, ⟨i, hphase, hturn, hexec⟩ | ⟨a, hturn, hhost⟩⟩ := step_next_setTurns hstep
  · rcases exec_next_input hexec with hsame | ⟨rfl, hlong, hdrop⟩
    · exact .inl hsame
    · exact .inr (.inl ⟨hphase, hturn, hlong, hdrop⟩)
  · rcases performHost_next_input hhost with hsame | ⟨v, rfl, happend⟩ | ⟨ha, hempty⟩
    · exact .inl hsame
    · exact .inr (.inr (.inl ⟨v, hturn, happend⟩))
    · exact .inr (.inr (.inr ⟨hempty, a, hturn, ha⟩))

/-! ### What the host reaches (R32, R65, R141) -/

/-- Settles O44: by what a host action can have done. -/
theorem hostActionsReachOnlyConfigurationStartAndInput : Obligations.HostActionsReachOnlyConfigurationStartAndInput := by
  intro a s t hhost hreset
  have hkept : ∃ colours, s.input = s.input ++ colours := ⟨[], (List.append_nil _).symm⟩
  rcases performHost_next hhost with ⟨-, -, r, rfl⟩ | ⟨v, -, rfl⟩ | ⟨ha, -, -⟩ | ⟨-, hstart, hidle, rfl⟩ | ⟨-, -, rfl⟩ |
    ⟨-, -, hidle, v, hdimension⟩
  · exact ⟨hkept, .inl, fun _ => ⟨rfl, rfl, rfl, rfl, rfl⟩, rfl⟩
  · exact ⟨⟨[v], rfl⟩, .inl, fun _ => ⟨rfl, rfl, rfl, rfl, rfl⟩, rfl⟩
  · simp [hreset] at ha
  · exact ⟨hkept, fun _ => .inr ⟨hstart, rfl⟩, absurd hidle, rfl⟩
  · exact ⟨hkept, .inl, fun _ => ⟨rfl, rfl, rfl, rfl, rfl⟩, rfl⟩
  · rcases hdimension with rfl | rfl | rfl | rfl <;> exact ⟨hkept, .inl, absurd hidle, rfl⟩

/-! ### Which cells a memory lists -/

/-- A cell has a value exactly when the memory lists it. -/
theorem Memory.isSome_read {m : Memory} {a : Nat} : (m.read a).isSome = true ↔ a ∈ m.map fun p => p.1 := by
  induction m with
  | nil => simp
  | cons p m ih =>
    simp only [Memory.read, List.map_cons, List.mem_cons, ← ih]
    split <;> simp [*]

/-- Which cells are listed after a write depends on which were listed before, not on the colours. -/
theorem Memory.write_cells_congr {m n : Memory} (a : Nat) (v w : Colour)
    (h : (m.map fun p => p.1) = n.map fun p => p.1) :
    ((m.write a v).map fun p => p.1) = (n.write a w).map fun p => p.1 := by
  induction m generalizing n with
  | nil => obtain rfl := List.map_eq_nil_iff.1 h.symm; rfl
  | cons p m ih =>
    obtain ⟨q, n, rfl, hq, hn⟩ := List.map_eq_cons_iff.1 h.symm
    simp only [Memory.write, hq]
    split
    · simp [hn]
    · split
      · simp [hn]
      · simp [ih hn.symm]

theorem Memory.writeAll_cells_congr {ws ws' : List (Nat × Colour)} {m n : Memory}
    (hws : (ws.map fun p => p.1) = ws'.map fun p => p.1) (h : (m.map fun p => p.1) = n.map fun p => p.1) :
    ((m.writeAll ws).map fun p => p.1) = (n.writeAll ws').map fun p => p.1 := by
  induction ws generalizing ws' m n with
  | nil => obtain rfl := List.map_eq_nil_iff.1 hws.symm; exact h
  | cons w ws ih =>
    obtain ⟨w', ws', rfl, hw, hrest⟩ := List.map_eq_cons_iff.1 hws.symm
    simp only [Memory.writeAll, hw]
    exact ih hrest.symm (Memory.write_cells_congr _ _ _ h)

theorem Memory.length_of_readAll {m : Memory} {cells : List Nat} {vs : List Colour} (h : m.readAll cells = some vs) :
    vs.length = cells.length := by
  simpa using (congrArg List.length (Memory.readAll_eq_some.1 h)).symm

/-- Two memories that list the same cells answer, or refuse, the same reads. -/
theorem Memory.readAll_of_cells_eq {m n : Memory} (h : (m.map fun p => p.1) = n.map fun p => p.1) {cells : List Nat}
    {vs : List Colour} (hm : m.readAll cells = some vs) : ∃ us, n.readAll cells = some us := by
  refine Memory.readAll_isSome fun a ha => ?_
  have hread : m.read a ∈ vs.map some := Memory.readAll_eq_some.1 hm ▸ List.mem_map_of_mem ha
  obtain ⟨v, -, hv⟩ := List.mem_map.1 hread
  rw [Memory.isSome_read, ← h, ← Memory.isSome_read, ← hv]
  rfl

/-- However MIR's reads answer, the cells it writes are those of the frame. -/
theorem State.mirrored_cells (s : State) {m : Memory} {colours : List Colour} (h : m.readAll s.mirrorCells = some colours) :
    ((s.frameCells.zip colours).map fun p => p.1) = s.frameCells := by
  refine List.map_fst_zip (Nat.le_of_eq ?_)
  rw [Memory.length_of_readAll h]
  simp [State.frameCells, State.mirrorCells]

/-! ### The two outcomes of LDT (R100, R102) -/

theorem execLdt_of_short {s : State} (h : s.input.length < 64) : execLdt s = .next s := dif_pos h

theorem execLdt_of_long {s : State} (h : 64 ≤ s.input.length) : ∃ loaded : Tile,
    execLdt s = .next ((((s.loadTile loaded).setInput (s.input.drop 64)).setOffset
      (8 * s.tx.setWidth 16) (8 * s.ty.setWidth 16)).goTo .rot) :=
  ⟨_, dif_neg (Nat.not_lt.2 h)⟩

/-! ### States that differ in colours only (R65, R111, R113) -/

/-- The state with other colours in `T`, `FB` and `IN`. -/
def State.recolour (u : Tile) (m : Memory) (q : List Colour) (s : State) : State :=
  { s with tile := u, frame := m, input := q }

section
variable {s t : State} (h : SameButColours s t)
include h

theorem SameButColours.recolour_eq : s.recolour t.tile t.frame t.input = t := h.1

theorem SameButColours.input_length : s.input.length = t.input.length := h.2.1

theorem SameButColours.frame_cells : (s.frame.map fun p => p.1) = t.frame.map fun p => p.1 := h.2.2

/-- What does not read the colours answers the same in both states. -/
theorem SameButColours.congr {α : Type} {f : State → α} (hf : ∀ s u m q, f (State.recolour u m q s) = f s) : f s = f t :=
  h.recolour_eq ▸ (hf ..).symm

/-- An update that neither reads nor writes the colours leaves the two states alike. -/
theorem SameButColours.update {f : State → State} (hf : ∀ s u m q, f (State.recolour u m q s) = (f s).recolour u m q) :
    SameButColours (f s) (f t) := by
  have hs : f s = (f s).recolour s.tile s.frame s.input := hf s s.tile s.frame s.input
  have ht : f t = (f s).recolour t.tile t.frame t.input := by rw [← hf, h.recolour_eq]
  rw [ht]
  refine ⟨rfl, ?_, ?_⟩ <;> rw [hs]
  · exact h.input_length
  · exact h.frame_cells

theorem SameButColours.goTo (i : Instr) : SameButColours (s.goTo i) (t.goTo i) := h.update fun _ _ _ _ => rfl

theorem SameButColours.setTile (u v : Tile) : SameButColours (s.setTile u) (t.setTile v) :=
  ⟨congrArg (State.setTile v) h.1, h.2⟩

theorem SameButColours.loadTile (u v : Tile) : SameButColours (s.loadTile u) (t.loadTile v) :=
  ⟨congrArg (State.loadTile v) h.1, h.2⟩

theorem SameButColours.setInput {p q : List Colour} (hpq : p.length = q.length) :
    SameButColours (s.setInput p) (t.setInput q) :=
  ⟨congrArg (State.setInput q) h.1, hpq, h.frame_cells⟩

theorem SameButColours.setFrame {m n : Memory} (hmn : (m.map fun p => p.1) = n.map fun p => p.1) :
    SameButColours (s.setFrame m) (t.setFrame n) :=
  ⟨congrArg (State.setFrame n) h.1, h.input_length, hmn⟩

/-- PLT's advance reads the position and the dimensions only. -/
theorem SameButColours.advance : SameButColours s.advance t.advance :=
  h.update fun s u m q => by
    unfold State.advance
    rw [apply_ite (State.recolour u m q), apply_ite (State.recolour u m q)]
    rfl

/-- The cells PLT writes depend on the offset only. -/
theorem SameButColours.tileWrites_cells : (s.tileWrites.map fun p => p.1) = t.tileWrites.map fun p => p.1 := by
  refine h.congr (f := fun s => s.tileWrites.map fun p => p.1) fun s u m q => ?_
  simp only [State.tileWrites, List.map_map]
  rfl

/-- CHK reads the dimensions and the capacity only (R143). -/
theorem SameButColours.execChk_outcome : SameButColoursOutcome (execChk s) (execChk t) := by
  have hcause : s.dimensionCause = t.dimensionCause := h.congr fun _ _ _ _ => rfl
  unfold execChk
  rw [hcause]
  cases t.dimensionCause with
  | some k => exact h.update (f := State.raiseInvalidDimensions k) fun _ _ _ _ => rfl
  | none => exact h.update (f := fun s => ((s.setPosition 0 0).setView 0 0).goTo .ldt) fun _ _ _ _ => rfl

/-- LDT holds or loads by the number of colours that wait (R100, R102). -/
theorem SameButColours.execLdt_outcome : SameButColoursOutcome (execLdt s) (execLdt t) := by
  have hlength := h.input_length
  rcases Nat.lt_or_ge s.input.length 64 with hshort | hlong
  · rw [execLdt_of_short hshort, execLdt_of_short (hlength ▸ hshort)]
    exact h
  · obtain ⟨u, hu⟩ := execLdt_of_long hlong
    obtain ⟨v, hv⟩ := execLdt_of_long (hlength ▸ hlong)
    rw [hu, hv]
    have hloaded := (h.loadTile u v).setInput (p := s.input.drop 64) (q := t.input.drop 64) (by simp [hlength])
    exact hloaded.update (f := fun s => (s.setOffset (8 * s.tx.setWidth 16) (8 * s.ty.setWidth 16)).goTo .rot)
      fun _ _ _ _ => rfl

/-- A stage moves colours and goes on (R113). -/
theorem SameButColours.stage_outcome (source : Fin 8 → Fin 8 → Fin 8 × Fin 8) (following : Instr) :
    SameButColoursOutcome (s.stage source following) (t.stage source following) :=
  (h.setTile _ _).goTo following

/-- PLT faults, or writes the same cells and advances alike (R120, R122). -/
theorem SameButColours.execPlt_outcome : SameButColoursOutcome (execPlt s) (execPlt t) := by
  have hinside : s.tileInFrame = t.tileInFrame := h.congr fun _ _ _ _ => rfl
  unfold execPlt
  rw [hinside]
  split
  · exact (h.setFrame (Memory.writeAll_cells_congr h.tileWrites_cells h.frame_cells)).advance
  · rfl

/-- MIR refuses, or writes the cells of the frame, by which cells have been written (R124). -/
theorem SameButColours.execMir_outcome : SameButColoursOutcome (execMir s) (execMir t) := by
  have hmirror : s.mirrorCells = t.mirrorCells := h.congr fun _ _ _ _ => rfl
  have hcells : s.frameCells = t.frameCells := h.congr fun _ _ _ _ => rfl
  unfold execMir
  rw [hmirror]
  cases hs : s.frame.readAll t.mirrorCells with
  | some colours =>
    obtain ⟨others, ht⟩ := Memory.readAll_of_cells_eq h.frame_cells hs
    rw [ht]
    refine (h.setFrame (Memory.writeAll_cells_congr ?_ h.frame_cells)).goTo .crp
    rw [hcells, t.mirrored_cells hs, t.mirrored_cells ht]
  | none =>
    cases ht : t.frame.readAll t.mirrorCells with
    | some others =>
      obtain ⟨colours, hs'⟩ := Memory.readAll_of_cells_eq h.frame_cells.symm ht
      rw [hs] at hs'
      cases hs'
    | none => rfl

end

/-- Settles O49: by the operation; none but LDT, the stages, PLT and MIR reaches a colour at all. -/
theorem controlNeverDependsOnColours : Obligations.ControlNeverDependsOnColours := by
  intro i s t h
  cases i
  case idl => exact h
  case chk => exact h.execChk_outcome
  case ldt => exact h.execLdt_outcome
  case rot => exact h.stage_outcome rotSource .qsw
  case qsw => exact h.stage_outcome qswSource .mcs
  case mcs => exact h.stage_outcome mcsSource .rgs
  case rgs => exact h.stage_outcome rgsSource .plt
  case plt => exact h.execPlt_outcome
  case mir => exact h.execMir_outcome
  case crp => exact h.update (f := fun s => (s.setView s.lwidth s.lheight).goTo .hlt) fun _ _ _ _ => rfl
  case hlt => exact h
  case err => exact h

end Sys2Proof.Machine
end

section
/-!
PROOFS. The operation map and the layout of a colour (30_encoding.md): decoding against encoding, the reserved codes, packing
against channel extraction, and which operands each operation writes.
-/

namespace Sys2Proof.Machine

/-! ### What each operation writes (R79) -/

/-- A cell that is its own source keeps its colour through a stage. -/
theorem State.stage_cell_of_fixed {source : Fin 8 → Fin 8 → Fin 8 × Fin 8} {following : Instr} {s t : State}
    (h : s.stage source following = .next t) {c r : Fin 8} (hfixed : source c r = (c, r)) :
    t.tile.cell c r = s.tile.cell c r := by
  obtain rfl := State.stage_next h
  simp [hfixed]

/-- QSW moves the cells of the upper-right and the lower-left quadrant only (R105). -/
theorem qswSource_of_outside {c r : Fin 8} (hupper : ¬ (4 ≤ c.val ∧ r.val < 4)) (hlower : ¬ (c.val < 4 ∧ 4 ≤ r.val)) :
    qswSource c r = (c, r) := by
  rw [qswSource, if_neg hupper, if_neg hlower]

/-- MCS moves the cells of columns 2 to 5 only (R107). -/
theorem mcsSource_of_outside {c r : Fin 8} (h : ¬ (2 ≤ c.val ∧ c.val ≤ 5)) : mcsSource c r = (c, r) := by
  unfold mcsSource
  split
  case h_5 => rfl
  all_goals omega

/-- CHK writes its fault, or the four registers it clears (R143, R170). -/
theorem execChk_restore {s t : State} (h : execChk s = .next t) :
    { t with tx := s.tx, ty := s.ty, vw := s.vw, vh := s.vh, phase := s.phase } = s ∨
    { t with err := s.err, phase := s.phase } = s := by
  rcases execChk_next h with ⟨-, rfl⟩ | ⟨k, -, rfl⟩
  · exact .inl rfl
  · exact .inr rfl

/-- LDT writes nothing when it holds, and the tile, its offset and `IN` when it loads (R101, R102). -/
theorem execLdt_restore {s t : State} (h : execLdt s = .next t) :
    { t with tile := s.tile, tileWritten := s.tileWritten, offx := s.offx, offy := s.offy, input := s.input,
             phase := s.phase } = s := by
  rcases execLdt_next h with ⟨-, rfl⟩ | ⟨-, loaded, -, rfl⟩
  · rfl
  · exact s.restore_load ..

/-- PLT writes `FB`, of it the 64 cells of the tile at its offset only, and the position (R120, R122). -/
theorem execPlt_restore {s t : State} (h : execPlt s = .next t) :
    { t with frame := s.frame, tx := s.tx, ty := s.ty, phase := s.phase } = s ∧
    ∀ a : Nat, (∀ c r : Fin 8, a ≠ cellAddress (s.offx.toNat + c.val) (s.offy.toNat + r.val)) →
      t.frame.read a = s.frame.read a := by
  obtain ⟨-, rfl⟩ := execPlt_next h
  obtain ⟨x, y, following, e⟩ := (s.setFrame (s.frame.writeAll s.tileWrites)).advance_eq
  rw [e]
  refine ⟨s.restore_frame_position .., fun a houtside => ?_⟩
  rw [State.goTo_frame, State.setPosition_frame, State.setFrame_frame]
  refine Memory.read_writeAll_other fun p hp => ?_
  obtain ⟨c, r, rfl⟩ := State.mem_tileWrites.1 hp
  exact (houtside c r).symm

/-- MIR writes `FB`, and of it the cells of the frame only (R124). -/
theorem execMir_restore {s t : State} (h : execMir s = .next t) :
    { t with frame := s.frame, phase := s.phase } = s ∧ ∀ a : Nat, a ∉ s.frameCells → t.frame.read a = s.frame.read a := by
  obtain ⟨colours, -, rfl⟩ := execMir_next h
  exact ⟨s.restore_frame .., fun a ha => State.read_mirror_outside ha⟩

/-- Settles O43: by the operation; each clause is that operation's frame. -/
theorem operationsWriteOnlyTheirOperands : Obligations.OperationsWriteOnlyTheirOperands := by
  intro i s t h
  cases i
  case idl => cases h; rfl
  case chk => exact execChk_restore h
  case ldt => exact execLdt_restore h
  case rot => exact State.stage_restore h
  case qsw =>
    exact ⟨State.stage_restore h, fun c r hupper hlower =>
      State.stage_cell_of_fixed h (qswSource_of_outside hupper hlower)⟩
  case mcs => exact ⟨State.stage_restore h, fun c r hc => State.stage_cell_of_fixed h (mcsSource_of_outside hc)⟩
  case rgs => exact State.stage_restore h
  case plt => exact execPlt_restore h
  case mir => exact execMir_restore h
  case crp => cases h; rfl
  case hlt => cases h; rfl
  case err => cases h; rfl

/-! ### The operation map (R77, R80, R81) -/

/-- Settles O1: each code falls into its own row of the decoder. -/
theorem operationMapListsEveryCode : Obligations.OperationMapListsEveryCode :=
  ⟨rfl, rfl, rfl, rfl, rfl, rfl, rfl, rfl, rfl, rfl, rfl, rfl, rfl, rfl, rfl, rfl⟩

/-- A word of the opcode table is an operation exactly when it fits the four bits of a code and that code decodes. -/
theorem decodeTableWord_eq_some {nbits w : Nat} {i : Instr} :
    decodeTableWord nbits w = some i ↔ w < 16 ∧ decode (BitVec.ofNat 4 w) = .ok i := by
  unfold decodeTableWord
  split
  next hw => split <;> simp [*]
  next hw => simp [hw]

/-- Settles O2: a word of four bits is a code, and a code decodes to the operation it encodes. -/
theorem tableWordDecodesExactlyToItsCode : Obligations.TableWordDecodesExactlyToItsCode := by
  intro nbits w i
  rw [decodeTableWord_eq_some, decode_eq_ok]
  constructor
  · rintro ⟨hw, hcode⟩
    rw [← hcode, BitVec.toNat_ofNat, Nat.mod_eq_of_lt hw]
  · rintro rfl
    exact ⟨(encode i).isLt, by simp⟩

/-- The decoder rejects each reserved code under its own name (R81). -/
theorem decode_of_reserved {code : BitVec 4} (hlow : 0xB ≤ code.toNat) (hhigh : code.toNat ≤ 0xE) :
    decode code = .error (.reservedCode code) := by
  revert code
  decide

/-- Settles O3: nothing is fetched under a reserved code, and none of them is the code of HLT. -/
theorem reservedPhaseHasNoStep : Obligations.ReservedPhaseHasNoStep := by
  intro s herr hlow hhigh
  constructor
  · simp [step, State.fetch, herr, decode_of_reserved hlow hhigh]
  · rw [State.endedWell, State.done, Bool.eq_false_iff, Ne, State.inPhase_iff]
    intro hhlt
    rw [hhlt] at hlow
    exact absurd hlow (by decide)

/-! ### The layout of a colour (R70, R71) -/

/-- A byte moved up by at most 16 bits stays whole in a colour. -/
theorem toNat_byte_shiftLeft (v : Byte) {k : Nat} (hk : k ≤ 16) : (v.setWidth 24 <<< k).toNat = v.toNat <<< k := by
  have hfits : v.toNat <<< k < 2 ^ 24 :=
    (Nat.shiftLeft_lt v.isLt).trans_le (Nat.pow_le_pow_right (by decide) (by omega))
  rw [BitVec.toNat_shiftLeft, BitVec.toNat_setWidth_of_le (by decide), Nat.mod_eq_of_lt hfits]

/-- Each byte lies below the bits of the one before it, so the disjunction of the three is their sum. -/
theorem pack_toNat (r g b : Byte) : (pack r g b).toNat = 65536 * r.toNat + 256 * g.toNat + b.toNat := by
  have hg := g.isLt
  have hb := b.isLt
  have hlow : g.toNat <<< 8 ||| b.toNat = 256 * g.toNat + b.toNat := by
    rw [← Nat.shiftLeft_add_eq_or_of_lt hb, Nat.shiftLeft_eq, Nat.mul_comm]
  have hall : r.toNat <<< 16 ||| (256 * g.toNat + b.toNat) = 65536 * r.toNat + (256 * g.toNat + b.toNat) := by
    rw [← Nat.shiftLeft_add_eq_or_of_lt (by omega), Nat.shiftLeft_eq, Nat.mul_comm]
  rw [pack, BitVec.or_assoc, BitVec.toNat_or, BitVec.toNat_or, toNat_byte_shiftLeft r (by decide),
    toNat_byte_shiftLeft g (by decide), BitVec.toNat_setWidth_of_le (by decide), hlow, hall, Nat.add_assoc]

theorem channels_red_toNat (v : Colour) : (channels v).red.toNat = v.toNat / 65536 := by
  have := v.isLt
  simp only [channels, BitVec.extractLsb'_toNat, Nat.shiftRight_eq_div_pow]
  omega

theorem channels_green_toNat (v : Colour) : (channels v).green.toNat = v.toNat / 256 % 256 := by
  simp [channels, BitVec.extractLsb'_toNat, Nat.shiftRight_eq_div_pow]

theorem channels_blue_toNat (v : Colour) : (channels v).blue.toNat = v.toNat % 256 := by
  simp [channels, BitVec.extractLsb'_toNat]

/-- Settles O34: in numbers packing is positional notation to the base 256, and the channels are its digits. -/
theorem packAndChannelsAreInverse : Obligations.PackAndChannelsAreInverse := by
  refine ⟨pack_toNat, fun r g b => ⟨?red, ?green, ?blue⟩, fun v => ?colour⟩ <;> apply BitVec.eq_of_toNat_eq
  case red => rw [channels_red_toNat, pack_toNat]; omega
  case green => rw [channels_green_toNat, pack_toNat]; omega
  case blue => rw [channels_blue_toNat, pack_toNat]; omega
  case colour => rw [pack_toNat, channels_red_toNat, channels_green_toNat, channels_blue_toNat]; omega

end Sys2Proof.Machine
end

section
/-!
PROOFS. The host-side front end (40_frontend.md): what FTR and PSD read, and when the preparation of a file fails.
-/

namespace Sys2Proof.Machine

/-! ### FTR (R72, R90, R91) -/

/-- A footer field is the number whose two digits to the base 256 are its bytes, the low byte first (R72). -/
theorem le16_toNat (low high : Byte) : (le16 low high).toNat = low.toNat + 256 * high.toNat := by
  have hlow := low.isLt
  have hhigh : high.toNat <<< 8 < 2 ^ 16 := Nat.shiftLeft_lt high.isLt
  rw [le16, BitVec.toNat_or, BitVec.toNat_shiftLeft, BitVec.toNat_setWidth_of_le (by decide),
    BitVec.toNat_setWidth_of_le (by decide), Nat.mod_eq_of_lt hhigh, Nat.or_comm, ← Nat.shiftLeft_add_eq_or_of_lt hlow,
    Nat.shiftLeft_eq]
  omega

theorem parseFooter_of_short {buffer : List Byte} (h : buffer.length < 12) :
    parseFooter buffer = .error .malformedInput := by
  unfold parseFooter
  split
  next htail =>
    have hlength := congrArg List.length htail
    simp only [List.length_drop, List.length_cons, List.length_nil] at hlength
    omega
  next => rfl

theorem parseFooter_of_long {buffer : List Byte} (h : 12 ≤ buffer.length) :
    parseFooter buffer = .ok {
      width         := le16 buffer[buffer.length - 8] buffer[buffer.length - 7]
      height        := le16 buffer[buffer.length - 6] buffer[buffer.length - 5]
      logicalWidth  := le16 buffer[buffer.length - 4] buffer[buffer.length - 3]
      logicalHeight := le16 buffer[buffer.length - 2] buffer[buffer.length - 1] } := by
  have htail : buffer.drop (buffer.length - 12) =
      List.ofFn fun i : Fin 12 => buffer[buffer.length - (12 - i.val)]'(by omega) := by
    refine List.ext_getElem (by simp; omega) fun i hi hi' => ?_
    rw [List.length_ofFn] at hi'
    rw [List.getElem_drop, List.getElem_ofFn]
    congr 1
    simp only
    omega
  rw [parseFooter, htail]
  rfl

/-- Settles O57: the last twelve bytes exist exactly when the buffer has twelve, and each field is a byte pair of them. -/
theorem footerParseReadsTheLastBytes : Obligations.FooterParseReadsTheLastBytes := by
  refine fun buffer => ⟨parseFooter_of_short, fun h => ⟨_, parseFooter_of_long h, ?width, ?height, ?logicalWidth,
    ?logicalHeight⟩⟩
  all_goals exact ⟨_, _, List.getElem?_eq_getElem _, List.getElem?_eq_getElem _, le16_toNat ..⟩

/-! ### PSD (R92, R93) -/

theorem length_decodeTriples (bytes : List Byte) : (decodeTriples bytes).length = bytes.length / 3 := by
  induction bytes using decodeTriples.induct with
  | case1 r g b rest ih => simp only [decodeTriples, List.length_cons, ih]; omega
  | case2 bytes hshort =>
    have hlength : bytes.length < 3 := by
      match bytes, hshort with
      | [], _ | [_], _ | [_, _], _ => simp
      | r :: g :: b :: rest, hshort => exact absurd rfl (hshort r g b rest)
    rw [decodeTriples.eq_2 _ hshort, List.length_nil, Nat.div_eq_of_lt hlength]

/-- Colour number `k` of the walk is made of the bytes `3k`, `3k+1` and `3k+2`: red, green, blue (R92). -/
theorem getElem?_decodeTriples (bytes : List Byte) {k : Nat} (h : 3 * k + 2 < bytes.length) :
    (decodeTriples bytes)[k]? = some (pack bytes[3 * k] bytes[3 * k + 1] bytes[3 * k + 2]) := by
  induction k generalizing bytes with
  | zero =>
    match bytes, h with
    | r :: g :: b :: rest, _ => rfl
  | succ k ih =>
    match bytes, h with
    | r :: g :: b :: rest, h =>
      exact ih rest (by simp only [List.length_cons] at h; omega)

theorem decodePixels_of_malformed {data : List Byte} (h : data.length < 3 ∨ data.length % 3 ≠ 0) :
    decodePixels data = .error .malformedInput := if_pos h

theorem decodePixels_of_wellFormed {data : List Byte} (h3 : 3 ≤ data.length) (hmod : data.length % 3 = 0) :
    decodePixels data = .ok (decodeTriples data.reverse) := if_neg (by omega)

/-- Settles O58: the walk over the reversed body, read from the body's end. -/
theorem pixelDecodeWalksBackwards : Obligations.PixelDecodeWalksBackwards := by
  refine fun data => ⟨decodePixels_of_malformed, fun h3 hmod =>
    ⟨_, decodePixels_of_wellFormed h3 hmod, by rw [length_decodeTriples, List.length_reverse], fun k hk => ?_⟩⟩
  have hbyte : ∀ (i : Nat) (hi : 3 * k + i < data.reverse.length),
      data[data.length - (i + 1) - 3 * k]? = some data.reverse[3 * k + i] := by
    intro i hi
    rw [List.length_reverse] at hi
    rw [List.getElem_reverse, List.getElem?_eq_getElem (by omega)]
    congr 2
    omega
  have hlast : 3 * k + 2 < data.reverse.length := by rw [List.length_reverse]; omega
  exact ⟨_, _, _, hbyte 0 (by omega), hbyte 1 (by omega), hbyte 2 hlast, _, getElem?_decodeTriples _ hlast, pack_toNat ..⟩

/-! ### The preparation of a file (R95, R169) -/

theorem length_fileBody (buffer : List Byte) : (fileBody buffer).length = buffer.length - 12 := by
  simp [fileBody]

theorem bufferWf_iff {buffer : List Byte} :
    bufferWf buffer = true ↔ 15 ≤ buffer.length ∧ (buffer.length - 12) % 3 = 0 := by
  simp [bufferWf]

theorem fileScript_of_ok {buffer : List Byte} {f : Footer} {colours : List Colour} (hf : parseFooter buffer = .ok f)
    (hc : decodePixels (fileBody buffer) = .ok colours) : fileScript buffer = .ok (hostScript f colours) := by
  simp only [fileScript, hf, hc]

/-- Settles O59: FTR fails on a file without a footer, PSD on a body that is malformed; on every other file both succeed. -/
theorem fileScriptFailsExactlyOnMalformedFiles : Obligations.FileScriptFailsExactlyOnMalformedFiles := by
  refine fun buffer => ⟨fun hwf => ?fails, fun hwf => ?succeeds⟩
  case fails =>
    rw [Bool.eq_false_iff, Ne, bufferWf_iff] at hwf
    rcases Nat.lt_or_ge buffer.length 12 with hshort | hlong
    · simp only [fileScript, parseFooter_of_short hshort]
    · have hbody : (fileBody buffer).length < 3 ∨ (fileBody buffer).length % 3 ≠ 0 := by
        rw [length_fileBody]
        omega
      simp only [fileScript, parseFooter_of_long hlong, decodePixels_of_malformed hbody]
  case succeeds =>
    obtain ⟨hlong, hmod⟩ := bufferWf_iff.1 hwf
    have hf := parseFooter_of_long (buffer := buffer) (by omega)
    have hc := decodePixels_of_wellFormed (data := fileBody buffer) (by rw [length_fileBody]; omega)
      (by rw [length_fileBody]; exact hmod)
    exact ⟨_, _, hf, hc, fileScript_of_ok hf hc⟩

end Sys2Proof.Machine
end

section
/-!
PROOFS. The host's script for a file (40_frontend.md, R95): a run of it resets the block, configures it, fills `IN` and starts
the engine.
-/

namespace Sys2Proof.Machine

/-! ### Runs -/

theorem run_of_step {s t : State} (h : step s = .next t) (n : Nat) : core.run (n + 1) s = core.run n t := by
  have hcore : core.step s = .next t := h
  simp only [Host.Core.run, hcore]

/-- A run that answers a next state has answered one at its first step. -/
theorem exists_step_of_run {n : Nat} {s t : State} (h : core.run (n + 1) s = .next t) :
    ∃ u : State, step s = .next u ∧ core.run n u = .next t := by
  simp only [Host.Core.run] at h
  split at h
  next u hu => exact ⟨u, hu, h⟩
  next => cases h
  next => cases h

theorem run_add {m : Nat} {s t : State} (h : core.run m s = .next t) (n : Nat) : core.run (m + n) s = core.run n t := by
  induction m generalizing s with
  | zero => cases h; rw [Nat.zero_add]
  | succ m ih =>
    obtain ⟨u, hstep, hrun⟩ := exists_step_of_run h
    rw [Nat.succ_add, run_of_step hstep, ih hrun]

/-! ### One action of a script (R11; log 8) -/

theorem errValueWf_zero : errValueWf 0 = true := by decide

/-- A legal `PHASE` and `ERR` value let the step fetch an operation (R81, U17). -/
theorem State.exists_fetch {s : State} (hphase : operationCodeWf s.phase = true) (herr : errValueWf s.err = true) :
    ∃ i, s.fetch = .ok i := by
  cases hcode : decode s.phase with
  | ok i => exact ⟨i, State.fetch_eq_ok.2 ⟨herr, hcode⟩⟩
  | error e =>
    have hreserved : ∀ code, operationCodeWf code = true → (decode code).toOption.isSome = true := by decide
    have hsome := hreserved _ hphase
    rw [hcode] at hsome
    cases hsome

/-- The first step of a script is its first action, and leaves the rest of the script. -/
theorem run_withScript_cons {s t : State} {a : HostAction} {actions : List HostAction}
    (hphase : operationCodeWf s.phase = true) (herr : errValueWf s.err = true)
    (h : performHost a (s.withScript actions) = .next t) (n : Nat) :
    core.run (n + 1) (s.withScript (a :: actions)) = core.run n t := by
  obtain ⟨i, hi⟩ := State.exists_fetch (s := s.withScript (a :: actions)) hphase herr
  exact run_of_step ((step_of_host_turn hi (State.takeTurn_of_cons rfl)).trans h) n

/-! ### The parts of the script (R95, R141, R154, R155) -/

/-- A register write neither reads nor writes the rest of the script. -/
theorem State.writeRegister_withScript (s : State) (r : Reg) (v : Half) (actions : List HostAction) :
    (s.withScript actions).writeRegister r v = (s.writeRegister r v).withScript actions := by
  cases r
  case ctrl =>
    simp only [State.writeRegister, State.writeControl, apply_ite (State.withScript actions)]
    rfl
  case width | height | lwidth | lheight =>
    simp only [State.writeRegister, apply_ite (State.withScript actions)]
    rfl
  all_goals rfl

theorem Reg.ofIndex_index (r : Reg) : Reg.ofIndex r.index = r := by
  cases r <;> rfl

theorem run_wr {s t : State} {r : Reg} {v : Half} {actions : List HostAction} (hphase : operationCodeWf s.phase = true)
    (herr : errValueWf s.err = true) (h : s.writeRegister r v = t) (n : Nat) :
    core.run (n + 1) (s.withScript (.wr r.index v :: actions)) = core.run n (t.withScript actions) := by
  refine run_withScript_cons hphase herr ?_ n
  rw [performHost, Reg.ofIndex_index, State.writeRegister_withScript, h]

/-- The block with the four dimension registers set to a footer's fields. -/
def State.configure (f : Footer) (s : State) : State :=
  { s with width := f.width, height := f.height, lwidth := f.logicalWidth, lheight := f.logicalHeight }

theorem run_dimensionWrites {s : State} (f : Footer) (actions : List HostAction) (hidle : s.phase = encode .idl)
    (herr : errValueWf s.err = true) (n : Nat) :
    core.run (n + 4) (s.withScript (.wr Reg.width.index f.width :: .wr Reg.height.index f.height ::
      .wr Reg.lwidth.index f.logicalWidth :: .wr Reg.lheight.index f.logicalHeight :: actions)) =
    core.run n ((s.configure f).withScript actions) := by
  have hphase : operationCodeWf s.phase = true := by rw [hidle]; rfl
  have hwritten : s.inPhase .idl = true := State.inPhase_iff.2 hidle
  let s1 : State := { s with width := f.width }
  let s2 : State := { s1 with height := f.height }
  let s3 : State := { s2 with lwidth := f.logicalWidth }
  have hw : s.writeRegister .width f.width = s1 := if_pos hwritten
  have hh : s1.writeRegister .height f.height = s2 := if_pos hwritten
  have hlw : s2.writeRegister .lwidth f.logicalWidth = s3 := if_pos hwritten
  have hlh : s3.writeRegister .lheight f.logicalHeight = s.configure f := if_pos hwritten
  calc
    _ = core.run (n + 3) (s1.withScript _) := run_wr hphase herr hw _
    _ = core.run (n + 2) (s2.withScript _) := run_wr (s := s1) hphase herr hh _
    _ = core.run (n + 1) (s3.withScript _) := run_wr (s := s2) hphase herr hlw _
    _ = core.run n ((s.configure f).withScript actions) := run_wr (s := s3) hphase herr hlh _

/-- Pushes append their colours to `IN` in order (R155). -/
theorem run_pushes {s : State} (colours : List Colour) (actions : List HostAction)
    (hphase : operationCodeWf s.phase = true) (herr : errValueWf s.err = true) (n : Nat) :
    core.run (n + colours.length) (s.withScript (colours.map .push ++ actions)) =
    core.run n ((s.setInput (s.input ++ colours)).withScript actions) := by
  induction colours generalizing s with
  | nil => rw [List.append_nil]; rfl
  | cons v colours ih =>
    have hpush := run_withScript_cons (a := .push v) (actions := colours.map .push ++ actions) hphase herr rfl
      (n + colours.length)
    refine hpush.trans ((ih (s := s.push v) hphase herr).trans ?_)
    rw [State.push, State.setInput_input, List.append_assoc, List.singleton_append]
    rfl

/-- START in IDL goes to CHK (R141). -/
theorem State.start_of_idle {s : State} (hidle : s.phase = encode .idl) : s.writeRegister .ctrl 1 = s.goTo .chk := by
  rcases s.writeControl_cases 1 with ⟨hrst, -⟩ | ⟨-, -, -, e⟩ | ⟨-, hnone, -⟩
  · exact absurd hrst (by decide)
  · exact e
  · exact absurd hidle (hnone.resolve_left (by decide))

/-- The whole script leaves the block in CHK, freshly reset, with the footer's dimensions and all colours waiting. -/
theorem run_hostScript {s : State} (f : Footer) (colours : List Colour) (hphase : operationCodeWf s.phase = true)
    (herr : errValueWf s.err = true) :
    core.run (hostScript f colours).length (s.withScript (hostScript f colours)) =
    .next ((((s.resetBlock.configure f).setInput colours).goTo .chk).setTurns []) := by
  have hlength : (hostScript f colours).length = 1 + colours.length + 4 + 1 := by
    simp [hostScript]
    omega
  have hstart := run_wr (s := (s.resetBlock.configure f).setInput colours) (actions := []) rfl errValueWf_zero
    (State.start_of_idle rfl) 0
  calc
    _ = core.run (1 + colours.length + 4) (s.resetBlock.withScript _) :=
      hlength ▸ run_withScript_cons hphase herr rfl _
    _ = core.run (1 + colours.length) ((s.resetBlock.configure f).withScript _) := run_dimensionWrites f _ rfl errValueWf_zero _
    _ = core.run 1 (((s.resetBlock.configure f).setInput colours).withScript _) :=
      run_pushes (s := s.resetBlock.configure f) colours _ rfl errValueWf_zero 1
    _ = _ := hstart

end Sys2Proof.Machine
end

section
/-!
PROOFS. The six steps of one tile while the host is silent (41_tile_permutation.md, 42_raster_assembler.md): LDT, the four
stages and PLT put 64 colours of `IN` into the frame buffer, each where the Morton index says.
-/

namespace Sys2Proof.Machine

/-! ### What stays (R79) -/

/-- What no operation changes while a frame is worked on with a silent host. -/
structure State.SameRun (s t : State) : Prop where
  err : t.err = 0
  turns : t.turns = []
  size : t.width = s.width ∧ t.height = s.height
  logical : t.lwidth = s.lwidth ∧ t.lheight = s.lheight

theorem State.SameRun.trans {s t u : State} (hst : s.SameRun t) (htu : t.SameRun u) : s.SameRun u where
  err := htu.err
  turns := htu.turns
  size := ⟨htu.size.1.trans hst.size.1, htu.size.2.trans hst.size.2⟩
  logical := ⟨htu.logical.1.trans hst.logical.1, htu.logical.2.trans hst.logical.2⟩

theorem State.SameRun.advance {s t : State} (h : s.SameRun t) : s.SameRun t.advance := by
  obtain ⟨x, y, following, e⟩ := t.advance_eq
  rw [e]
  exact { h with }

theorem State.SameRun.tilesAcross {s t : State} (h : s.SameRun t) : t.tilesAcross = s.tilesAcross := by
  rw [State.tilesAcross, State.tilesAcross, h.size.1]

theorem State.SameRun.tilesDown {s t : State} (h : s.SameRun t) : t.tilesDown = s.tilesDown := by
  rw [State.tilesDown, State.tilesDown, h.size.2]

/-! ### One tile: LDT, the four stages, PLT (R100 to R122) -/

theorem step_of_silent {s : State} {i : Instr} (hphase : s.phase = encode i) (herr : s.err = 0) (hturns : s.turns = []) :
    step s = exec i s := by
  have hwf : errValueWf s.err = true := by rw [herr]; exact errValueWf_zero
  exact step_of_engine_turn (State.fetch_eq_ok.2 ⟨hwf, decode_eq_ok.2 hphase⟩) (State.takeTurn_of_nil hturns)

/-- What ROT, QSW, MCS and RGS in a row make of a tile (R111). -/
def Tile.rearrange (t : Tile) : Tile := (((t.permute rotSource).permute qswSource).permute mcsSource).permute rgsSource

theorem morton_lt (c r : Nat) : morton c r < 64 := by
  unfold morton
  omega

/-- The four stages compose to the Morton arrangement (R112). -/
theorem Tile.cell_rearrange (t : Tile) (c r : Fin 8) :
    ∃ c' r' : Fin 8, 8 * c'.val + r'.val = morton c.val r.val ∧ t.rearrange.cell c r = t.cell c' r' := by
  have hsource : ∀ c r : Fin 8,
      let p := rgsSource c r
      let q := mcsSource p.1 p.2
      let u := qswSource q.1 q.2
      let v := rotSource u.1 u.2
      8 * v.1.val + v.2.val = morton c.val r.val := by decide
  refine ⟨_, _, hsource c r, ?_⟩
  rw [Tile.rearrange, Tile.cell_permute, Tile.cell_permute, Tile.cell_permute, Tile.cell_permute]

/-- `IN`, `T` and the offset after a load of the current tile (R100, R101). -/
def State.takeTile (t : Tile) (s : State) : State :=
  ((s.loadTile t).setInput (s.input.drop 64)).setOffset (8 * s.tx.setWidth 16) (8 * s.ty.setWidth 16)

/-- LDT with at least 64 colours waiting (R100, R101). -/
theorem execLdt_loads {s : State} (h : 64 ≤ s.input.length) :
    ∃ t : Tile, (∀ c r : Fin 8, s.input[8 * c.val + r.val]? = some (t.cell c r)) ∧
      execLdt s = .next ((s.takeTile t).goTo .rot) := by
  obtain ⟨_, hload⟩ := execLdt_of_long h
  rcases execLdt_next hload with ⟨hshort, -⟩ | ⟨-, t, ht, e⟩
  · omega
  · exact ⟨t, ht, hload.trans (congrArg _ e)⟩

/-- The state before the advance, with the tile written to the frame buffer (R120). -/
def State.place (s : State) : State := s.setFrame (s.frame.writeAll s.tileWrites)

/-- A stage works on the tile just loaded, and goes on (R113). -/
theorem run_stage {s : State} {i following : Instr} {source : Fin 8 → Fin 8 → Fin 8 × Fin 8} (t : Tile) (herr : s.err = 0)
    (hturns : s.turns = []) (hi : exec i = State.stage source following) (n : Nat) :
    core.run (n + 1) ((s.takeTile t).goTo i) = core.run n ((s.takeTile (t.permute source)).goTo following) := by
  refine run_of_step ?_ n
  rw [step_of_silent (s := (s.takeTile t).goTo i) rfl herr hturns, hi]
  rfl

theorem run_stages {s : State} (t : Tile) (herr : s.err = 0) (hturns : s.turns = []) (n : Nat) :
    core.run (n + 4) ((s.takeTile t).goTo .rot) = core.run n ((s.takeTile t.rearrange).goTo .plt) :=
  calc
    _ = core.run (n + 3) _ := run_stage (source := rotSource) (following := .qsw) t herr hturns rfl _
    _ = core.run (n + 2) _ := run_stage (source := qswSource) (following := .mcs) _ herr hturns rfl _
    _ = core.run (n + 1) _ := run_stage (source := mcsSource) (following := .rgs) _ herr hturns rfl _
    _ = core.run n _ := run_stage (source := rgsSource) (following := .plt) _ herr hturns rfl _

theorem State.takeTile_tileInFrame {s : State} (t : Tile) (hx : 8 * s.tx.toNat + 7 < s.width.toNat)
    (hy : 8 * s.ty.toNat + 7 < s.height.toNat) : ((s.takeTile t).goTo .plt).tileInFrame = true := by
  simp only [State.tileInFrame, State.takeTile, State.goTo_offx, State.goTo_offy, State.setOffset_offx, State.setOffset_offy,
    offset_toNat, Bool.and_eq_true, decide_eq_true_eq]
  exact ⟨hx, hy⟩

/-- What PLT leaves in a cell of the frame: the tile's cell, where the tile lies (R120). -/
theorem State.Loaded.read_place {s : State} (h : s.Loaded) (hinside : s.tileInFrame = true) {x y : Nat}
    (hx : x < s.width.toNat) :
    s.place.frame.read (cellAddress x y) =
      if x / 8 = s.tx.toNat ∧ y / 8 = s.ty.toNat then
        some (s.tile.cell ⟨x % 8, by omega⟩ ⟨y % 8, by omega⟩)
      else s.frame.read (cellAddress x y) := by
  rw [State.place, State.setFrame_frame]
  split
  next hin =>
    obtain ⟨hoffx, hoffy⟩ := h.offset
    have ex : x = s.offx.toNat + x % 8 := by omega
    have ey : y = s.offy.toNat + y % 8 := by omega
    have hcell : cellAddress x y = cellAddress (s.offx.toNat + x % 8) (s.offy.toNat + y % 8) := congrArg₂ _ ex ey
    rw [hcell]
    exact State.read_tileWrites hinside ⟨x % 8, by omega⟩ ⟨y % 8, by omega⟩
  next hout =>
    exact Memory.read_writeAll_other fun p hp e =>
      hout ((h.cellAddress_mem_tileWrites hx).1 (List.mem_map.2 ⟨p, hp, e⟩))

/-- `p` is `s` with the current tile placed: the 64 oldest colours of `IN`, in the Morton arrangement (R112, R120). -/
structure State.TilePlaced (s p : State) : Prop extends s.SameRun p where
  position : p.tx = s.tx ∧ p.ty = s.ty
  input : p.input = s.input.drop 64
  frame : ∀ x y, x < s.width.toNat → p.frame.read (cellAddress x y) =
    if x / 8 = s.tx.toNat ∧ y / 8 = s.ty.toNat then s.input[morton (x % 8) (y % 8)]? else s.frame.read (cellAddress x y)

/-- The six steps of a tile whose colours wait and which lies inside the frame. -/
theorem run_tile {s : State} (hphase : s.phase = encode .ldt) (herr : s.err = 0) (hturns : s.turns = [])
    (hinput : 64 ≤ s.input.length) (hx : 8 * s.tx.toNat + 7 < s.width.toNat) (hy : 8 * s.ty.toNat + 7 < s.height.toNat) :
    ∃ p : State, core.run 6 s = .next p.advance ∧ s.TilePlaced p := by
  obtain ⟨t, ht, hload⟩ := execLdt_loads hinput
  have hstages := run_stages t herr hturns 1
  have hcells := t.cell_rearrange
  generalize t.rearrange = u at hstages hcells
  have hinside := State.takeTile_tileInFrame u hx hy
  have hplace : step ((s.takeTile u).goTo .plt) = .next ((s.takeTile u).goTo .plt).place.advance :=
    (step_of_silent (s := (s.takeTile u).goTo .plt) (i := .plt) rfl herr hturns).trans (execPlt_inside hinside)
  have hsame : s.SameRun ((s.takeTile u).goTo .plt).place := ⟨herr, hturns, ⟨rfl, rfl⟩, ⟨rfl, rfl⟩⟩
  refine ⟨((s.takeTile u).goTo .plt).place, ?_, hsame, ⟨rfl, rfl⟩, rfl, fun x y hxw => ?_⟩
  · rw [run_of_step ((step_of_silent hphase herr hturns).trans hload), hstages, run_of_step hplace]
    rfl
  · have hloaded : ((s.takeTile u).goTo .plt).Loaded := ⟨rfl, offset_toNat s.tx, offset_toNat s.ty⟩
    obtain ⟨c, r, hindex, hcell⟩ := hcells ⟨x % 8, by omega⟩ ⟨y % 8, by omega⟩
    have hread : s.input[morton (x % 8) (y % 8)]? = some (u.cell ⟨x % 8, by omega⟩ ⟨y % 8, by omega⟩) := by
      rw [hcell, ← ht, hindex]
    rw [hread]
    exact hloaded.read_place hinside hxw

end Sys2Proof.Machine
end

section
/-!
PROOFS. The run over one whole frame while the host is silent (42_raster_assembler.md, R122 to R133): tile by tile, then by the
mirror, the frame buffer becomes the closed form.
-/

namespace Sys2Proof.Machine

/-! ### The walk over the grid (R122) -/

/-- The advance goes to the tile with the next number, or from the last tile to MIR. -/
theorem State.advance_walk {s : State} (hx : s.tx.toNat < s.tilesAcross) (hy : s.ty.toNat < s.tilesDown) :
    (s.tileNumber + 1 < s.tilesAcross * s.tilesDown ∧ s.advance.phase = encode .ldt ∧
      s.advance.tileNumber = s.tileNumber + 1 ∧ s.advance.tx.toNat < s.tilesAcross ∧ s.advance.ty.toNat < s.tilesDown) ∨
    (s.tileNumber + 1 = s.tilesAcross * s.tilesDown ∧ s.AtLastTile ∧ s.advance = s.goTo .mir) := by
  have := s.width.isLt
  have := s.height.isLt
  have hacross : s.tilesAcross ≤ 65535 / 8 := by unfold State.tilesAcross; omega
  have hdown : s.tilesDown ≤ 65535 / 8 := by unfold State.tilesDown; omega
  rcases s.advance_cases with ⟨hnext, e⟩ | ⟨hrow, hnext, e⟩ | ⟨hrow, hcolumn, e⟩
  · have hsucc := tileCount_succ hacross hnext
    refine .inl ⟨linearAddress_lt_area hnext hy, ?_⟩
    rw [e]
    refine ⟨rfl, ?_, hsucc ▸ hnext, hy⟩
    show _ * s.tilesAcross + (s.tx + 1).toNat = _
    rw [hsucc]
    rfl
  · have hsucc := tileCount_succ hdown hnext
    have hnumber : s.tileNumber + 1 = linearAddress s.tilesAcross 0 (s.ty.toNat + 1) := by
      rw [State.tileNumber, linearAddress, Nat.succ_mul]
      omega
    refine .inl ⟨hnumber ▸ linearAddress_lt_area (Nat.zero_lt_of_lt hx) hnext, ?_⟩
    rw [e, hnumber]
    refine ⟨rfl, ?_, Nat.zero_lt_of_lt hx, hsucc ▸ hnext⟩
    show (s.ty + 1).toNat * s.tilesAcross + 0 = _
    rw [hsucc]
    rfl
  · have hlast : s.AtLastTile := ⟨Nat.le_antisymm hx hrow, Nat.le_antisymm hy hcolumn⟩
    refine .inr ⟨?_, hlast, e⟩
    rw [State.tileNumber, ← hlast.1, ← hlast.2]
    ring

/-! ### The frame before the mirror (R133) -/

/-- The number `k` such that the cell `(x, y)` holds `S[k]` before MIR, in a frame `w` pixels wide: the tile's number, then the
Morton index inside the tile. -/
def assembledIndex (w x y : Nat) : Nat := 64 * linearAddress (w / 8) (x / 8) (y / 8) + morton (x % 8) (y % 8)

/-- The mirror looks a cell up on the other side of its row (R124, R133). -/
theorem sourceIndex_eq (w x y : Nat) : sourceIndex w x y = assembledIndex w (w - 1 - x) y := rfl

theorem State.area_eq {s : State} (h : s.DimensionsLegal) :
    s.width.toNat * s.height.toNat = 64 * (s.tilesAcross * s.tilesDown) := by
  obtain ⟨-, hwidth, -, hheight, -⟩ := h
  have hw : s.width.toNat = 8 * s.tilesAcross := by unfold State.tilesAcross; omega
  have hh : s.height.toNat = 8 * s.tilesDown := by unfold State.tilesDown; omega
  rw [hw, hh]
  ring

/-- The number of the tile that a cell of the frame belongs to is one of the grid's. -/
theorem State.tileOf_lt {s : State} (h : s.DimensionsLegal) {x y : Nat} (hx : x < s.width.toNat) (hy : y < s.height.toNat) :
    linearAddress s.tilesAcross (x / 8) (y / 8) < s.tilesAcross * s.tilesDown := by
  obtain ⟨-, hwidth, -, hheight, -⟩ := h
  refine linearAddress_lt_area ?_ ?_
  · unfold State.tilesAcross; omega
  · unfold State.tilesDown; omega

theorem State.assembledIndex_lt {s : State} (h : s.DimensionsLegal) {x y : Nat} (hx : x < s.width.toNat)
    (hy : y < s.height.toNat) : assembledIndex s.width.toNat x y < s.width.toNat * s.height.toNat := by
  have htile : linearAddress (s.width.toNat / 8) (x / 8) (y / 8) < s.tilesAcross * s.tilesDown := State.tileOf_lt h hx hy
  have := morton_lt (x % 8) (y % 8)
  rw [State.area_eq h, assembledIndex]
  omega

theorem State.sourceIndex_lt {s : State} (h : s.DimensionsLegal) {x y : Nat} (hx : x < s.width.toNat)
    (hy : y < s.height.toNat) : sourceIndex s.width.toNat x y < s.width.toNat * s.height.toNat :=
  State.assembledIndex_lt h (by omega) hy

/-- The block, started in `s`, has placed its first `k` tiles, and goes on to the next or, after the last, to the mirror. -/
structure State.Assembled (s t : State) (k : Nat) : Prop extends s.SameRun t where
  input : t.input = s.input.drop (64 * k)
  frame : ∀ x y, x < s.width.toNat → y < s.height.toNat → linearAddress s.tilesAcross (x / 8) (y / 8) < k →
    t.frame.read (cellAddress x y) = s.input[assembledIndex s.width.toNat x y]?
  ahead : k < s.tilesAcross * s.tilesDown → t.phase = encode .ldt ∧ t.tileNumber = k ∧
    t.tx.toNat < s.tilesAcross ∧ t.ty.toNat < s.tilesDown
  complete : k = s.tilesAcross * s.tilesDown → t.phase = encode .mir ∧ t.AtLastTile

/-- CHK passes and the grid walk begins at tile 0 (R143). -/
theorem run_chk {s : State} (hphase : s.phase = encode .chk) (herr : s.err = 0) (hturns : s.turns = [])
    (h : s.DimensionsLegal) : ∃ t : State, core.run 1 s = .next t ∧ s.Assembled t 0 := by
  have hgrid : 0 < s.tilesAcross ∧ 0 < s.tilesDown := by unfold State.tilesAcross State.tilesDown; omega
  have hchk : execChk s = .next (((s.setPosition 0 0).setView 0 0).goTo .ldt) := by
    rw [execChk, State.dimensionCause_eq_none.2 h]
  refine ⟨_, run_of_step ((step_of_silent hphase herr hturns).trans hchk) 0, ?_⟩
  exact {
    err := herr
    turns := hturns
    size := ⟨rfl, rfl⟩
    logical := ⟨rfl, rfl⟩
    input := rfl
    frame := fun _ _ _ _ hk => absurd hk (Nat.not_lt_zero _)
    ahead := fun _ => ⟨rfl, by simp [State.tileNumber], hgrid⟩
    complete := fun hk => absurd hk (Nat.mul_pos hgrid.1 hgrid.2).ne }

section
variable {s t : State} {k : Nat} (h : s.Assembled t k) (hk : k < s.tilesAcross * s.tilesDown) (hlegal : s.DimensionsLegal)
include h hk

/-- The tile ahead lies inside the frame (R121). -/
theorem State.Assembled.tile_inside : 8 * t.tx.toNat + 7 < t.width.toNat ∧ 8 * t.ty.toNat + 7 < t.height.toNat := by
  obtain ⟨-, -, hx, hy⟩ := h.ahead hk
  unfold State.tilesAcross at hx
  unfold State.tilesDown at hy
  rw [h.size.1, h.size.2]
  omega

include hlegal

/-- A cell belongs to the tile ahead exactly when its tile has that tile's number. -/
theorem State.Assembled.tileOf_eq_iff {x y : Nat} (hx : x < s.width.toNat) :
    linearAddress s.tilesAcross (x / 8) (y / 8) = k ↔ x / 8 = t.tx.toNat ∧ y / 8 = t.ty.toNat := by
  obtain ⟨-, hnumber, htx, -⟩ := h.ahead hk
  have hcolumn : x / 8 < s.tilesAcross := by
    obtain ⟨-, hwidth, -⟩ := hlegal
    unfold State.tilesAcross
    omega
  rw [← linearAddress_inj hcolumn htx, ← hnumber, State.tileNumber, h.tilesAcross]
  rfl

/-- With the tile ahead placed, the cells of one tile more hold their colours. -/
theorem State.Assembled.read_tilePlaced {p : State} (hp : t.TilePlaced p) {x y : Nat} (hx : x < s.width.toNat)
    (hy : y < s.height.toNat) (hplaced : linearAddress s.tilesAcross (x / 8) (y / 8) < k + 1) :
    p.frame.read (cellAddress x y) = s.input[assembledIndex s.width.toNat x y]? := by
  have hcurrent := h.tileOf_eq_iff hk hlegal (y := y) hx
  rw [hp.frame x y (by rwa [h.size.1])]
  split
  next hin => rw [h.input, List.getElem?_drop, ← hcurrent.2 hin]; rfl
  next hout => exact h.frame x y hx hy (Nat.lt_of_le_of_ne (Nat.le_of_lt_succ hplaced) (mt hcurrent.1 hout))

/-- The advance from the tile ahead, once it is placed, makes it one of the tiles done (R122). -/
theorem State.Assembled.advance {p : State} (hp : t.TilePlaced p) : s.Assembled p.advance (k + 1) := by
  obtain ⟨-, hnumber, htx, hty⟩ := h.ahead hk
  obtain ⟨hptx, hpty⟩ := hp.position
  have hsame : s.SameRun p := h.toSameRun.trans hp.toSameRun
  have hpnumber : p.tileNumber = k := by
    rw [State.tileNumber, hptx, hpty, hp.tilesAcross]
    exact hnumber
  have hwalk := p.advance_walk (by rwa [hsame.tilesAcross, hptx]) (by rwa [hsame.tilesDown, hpty])
  rw [hsame.tilesAcross, hsame.tilesDown, hpnumber] at hwalk
  obtain ⟨x', y', following, e⟩ := p.advance_eq
  have hinput : p.advance.input = p.input := by rw [e]; rfl
  have hframe : p.advance.frame = p.frame := by rw [e]; rfl
  exact {
    toSameRun := hsame.advance
    input := by rw [hinput, hp.input, h.input, List.drop_drop]; rfl
    frame := fun x y hx hy hplaced => hframe ▸ h.read_tilePlaced hk hlegal hp hx hy hplaced
    ahead := fun hmore => by
      rcases hwalk with ⟨-, hnext⟩ | ⟨hend, -⟩
      · exact hnext
      · omega
    complete := fun hend => by
      rcases hwalk with ⟨hmore, -⟩ | ⟨-, hlast, e⟩
      · omega
      · rw [e]
        exact ⟨rfl, hlast⟩ }

/-- One tile more (R122, R133). -/
theorem State.Assembled.run_next_tile (hinput : s.width.toNat * s.height.toNat ≤ s.input.length) :
    ∃ u : State, core.run 6 t = .next u ∧ s.Assembled u (k + 1) := by
  obtain ⟨hphase, -⟩ := h.ahead hk
  obtain ⟨hright, hbottom⟩ := h.tile_inside hk
  have hwaiting : 64 ≤ t.input.length := by
    have := State.area_eq hlegal
    rw [h.input, List.length_drop]
    omega
  obtain ⟨p, hrun, hp⟩ := run_tile hphase h.err h.turns hwaiting hright hbottom
  exact ⟨_, hrun, h.advance hk hlegal hp⟩

end

/-- The walk over the whole grid, six steps a tile. -/
theorem State.Assembled.run_tiles {s t : State} (h : s.Assembled t 0) (hlegal : s.DimensionsLegal)
    (hinput : s.width.toNat * s.height.toNat ≤ s.input.length) {k : Nat} (hk : k ≤ s.tilesAcross * s.tilesDown) :
    ∃ u : State, core.run (6 * k) t = .next u ∧ s.Assembled u k := by
  induction k with
  | zero => exact ⟨t, rfl, h⟩
  | succ k ih =>
    obtain ⟨u, hrun, hu⟩ := ih (Nat.le_of_succ_le hk)
    obtain ⟨v, hrun', hv⟩ := hu.run_next_tile hk hlegal hinput
    exact ⟨v, (run_add hrun 6).trans hrun', hv⟩

/-! ### The mirror (R124) -/

/-- On a frame whose cells are all written MIR answers, and gives each cell what its mirror image held. -/
theorem execMir_of_written {s : State} (h : s.FrameWritten) :
    ∃ m : Memory, execMir s = .next ((s.setFrame m).goTo .crp) ∧ ∀ x y, x < s.width.toNat → y < s.height.toNat →
      m.read (cellAddress x y) = s.frame.read (cellAddress (s.width.toNat - 1 - x) y) := by
  have hwritten : ∀ a ∈ s.mirrorCells, (s.frame.read a).isSome = true := by
    intro a ha
    obtain ⟨p, hp, rfl⟩ := List.mem_map.1 ha
    obtain ⟨hx, hy⟩ := mem_scanCoords.1 hp
    exact h _ _ (by omega) hy
  obtain ⟨colours, hcolours⟩ := Memory.readAll_isSome hwritten
  refine ⟨s.frame.writeAll (s.frameCells.zip colours), by rw [execMir, hcolours], fun x y hx hy => ?_⟩
  -- The writes pair each cell of the frame with what was read of its mirror image.
  have hpairs : (s.frameCells.zip colours).map (Prod.map id some) =
      (scanCoords s.width.toNat s.height.toNat).map fun p =>
        (cellAddress p.1 p.2, s.frame.read (cellAddress (s.width.toNat - 1 - p.1) p.2)) := by
    rw [← List.zip_map, List.map_id, ← Memory.readAll_eq_some.1 hcolours, State.frameCells, State.mirrorCells, List.map_map,
      List.zip_map']
    rfl
  have hmem : (cellAddress x y, s.frame.read (cellAddress (s.width.toNat - 1 - x) y)) ∈
      (s.frameCells.zip colours).map (Prod.map id some) :=
    hpairs ▸ List.mem_map.2 ⟨(x, y), mem_scanCoords.2 ⟨hx, hy⟩, rfl⟩
  obtain ⟨⟨a, v⟩, hwrite, e⟩ := List.mem_map.1 hmem
  obtain ⟨rfl, hv⟩ := Prod.mk.inj e
  have hnodup : ((s.frameCells.zip colours).map fun p => p.1).Nodup := by
    rw [s.mirrored_cells hcolours]
    exact s.frameCells_nodup
  exact (Memory.read_writeAll hnodup hwrite).trans hv

/-! ### The whole frame (R133, R149) -/

/-- From CHK, with legal dimensions and the colours of the whole frame waiting, to CRP: the frame buffer holds the full raster in
closed form. -/
theorem run_frame {s : State} (hphase : s.phase = encode .chk) (herr : s.err = 0) (hturns : s.turns = [])
    (hlegal : s.DimensionsLegal) (hinput : s.width.toNat * s.height.toNat ≤ s.input.length) :
    ∃ u : State, core.run (6 * (s.tilesAcross * s.tilesDown) + 2) s = .next u ∧ u.phase = encode .crp ∧ s.SameRun u ∧
      u.AtLastTile ∧ u.input = s.input.drop (s.width.toNat * s.height.toNat) ∧
      ∀ x y, x < s.width.toNat → y < s.height.toNat →
        u.frame.read (cellAddress x y) = s.input[sourceIndex s.width.toNat x y]? := by
  obtain ⟨start, hchk, hstart⟩ := run_chk hphase herr hturns hlegal
  obtain ⟨t, htiles, ht⟩ := hstart.run_tiles hlegal hinput le_rfl
  obtain ⟨htphase, hlast⟩ := ht.complete rfl
  have hframe : ∀ x y, x < s.width.toNat → y < s.height.toNat →
      t.frame.read (cellAddress x y) = s.input[assembledIndex s.width.toNat x y]? :=
    fun x y hx hy => ht.frame x y hx hy (State.tileOf_lt hlegal hx hy)
  have hwritten : t.FrameWritten := by
    intro x y hx hy
    rw [ht.size.1] at hx
    rw [ht.size.2] at hy
    rw [hframe x y hx hy, List.getElem?_eq_getElem ((State.assembledIndex_lt hlegal hx hy).trans_le hinput)]
    rfl
  obtain ⟨m, hmir, hmirror⟩ := execMir_of_written hwritten
  have hstep := (step_of_silent htphase ht.err ht.turns).trans hmir
  refine ⟨(t.setFrame m).goTo .crp, ?_, rfl, { ht.toSameRun with }, hlast, ?_, fun x y hx hy => ?_⟩
  · rw [show 6 * (s.tilesAcross * s.tilesDown) + 2 = 1 + (6 * (s.tilesAcross * s.tilesDown) + 1) by omega, run_add hchk,
      run_add htiles, run_of_step hstep]
    rfl
  · rw [State.area_eq hlegal]
    exact ht.input
  · rw [sourceIndex_eq, State.goTo_frame, State.setFrame_frame,
      hmirror x y (by rwa [ht.size.1]) (by rwa [ht.size.2]), ht.size.1]
    exact hframe _ y (by omega) hy

/-- One step more, CRP opens the logical view (R127). -/
theorem step_crp_of_sameRun {s u : State} (hphase : u.phase = encode .crp) (h : s.SameRun u) :
    step u = .next ((u.setView s.lwidth s.lheight).goTo .hlt) := by
  rw [← h.logical.1, ← h.logical.2]
  exact step_of_silent hphase h.err h.turns

end Sys2Proof.Machine
end

section
/-!
PROOFS. From the bytes of a file to the two rasters (40_frontend.md, R95).
-/

namespace Sys2Proof.Machine

/-- With `DONE` set a written cell of the full raster reads out as its channels (R128, R129). -/
theorem State.fullPixel_eq_ok {s : State} {x y : Nat} {v : Colour} (hphase : s.phase = encode .hlt)
    (hx : x < s.width.toNat) (hy : y < s.height.toNat) (hread : s.frame.read (cellAddress x y) = some v) :
    s.fullPixel x y = .ok (channels v) :=
  State.readOut_eq_ok.2 ⟨hphase, hx, hy, v, hread, rfl⟩

/-- Inside both rasters the two read-outs are of the same cell (R129, R130). -/
theorem State.logicalPixel_eq_fullPixel {s : State} {x y : Nat} (hx : x < s.width.toNat) (hy : y < s.height.toNat)
    (hvx : x < s.vw.toNat) (hvy : y < s.vh.toNat) : s.logicalPixel x y = s.fullPixel x y := by
  simp only [State.logicalPixel, State.fullPixel, State.readOut, hx, hy, hvx, hvy, and_self, if_true]

/-- Settles O55: the script leaves a freshly started block, on which the engine then works through one whole frame. -/
theorem fileBytesDecodeToTheTwoRasters : Obligations.FileBytesDecodeToTheTwoRasters := by
  intro s buffer f colours hphase herr hcapacity hf hc hw hw8 hh hh8 hlw hlh hlength
  let started : State := (((s.resetBlock.configure f).setInput colours).goTo .chk).setTurns []
  have hlegal : started.DimensionsLegal := ⟨hw, hw8, hh, hh8, hlw, hlh, hcapacity⟩
  obtain ⟨u, hrun, huphase, hsame, -, hinput, hframe⟩ := run_frame (s := started) rfl rfl rfl hlegal hlength.ge
  obtain ⟨hwidth, hheight⟩ : u.width = f.width ∧ u.height = f.height := hsame.size
  have hcrp := step_crp_of_sameRun huphase hsame
  refine ⟨hostScript f colours, (u.setView f.logicalWidth f.logicalHeight).goTo .hlt, fileScript_of_ok hf hc, ?_, rfl, ?_,
    fun x y hx hy => ?_, fun x y hx hy => ?_⟩
  · rw [run_add (run_hostScript f colours hphase herr)]
    exact (run_add hrun 1).trans (run_of_step hcrp 0)
  · rw [State.goTo_input, State.setView_input, hinput]
    exact List.drop_eq_nil_of_le hlength.le
  · have hindex : sourceIndex f.width.toNat x y < colours.length := hlength ▸ State.sourceIndex_lt hlegal hx hy
    have hvalue := List.getElem?_eq_getElem hindex
    exact ⟨_, hvalue, State.fullPixel_eq_ok rfl (hwidth.symm ▸ hx) (hheight.symm ▸ hy) ((hframe x y hx hy).trans hvalue)⟩
  · exact State.logicalPixel_eq_fullPixel (hwidth.symm ▸ hx.trans_le hlw) (hheight.symm ▸ hy.trans_le hlh) hx hy

end Sys2Proof.Machine
end

section
/-!
PROOFS. The tile load and the four permutation stages (41_tile_permutation.md): what LDT does and when it holds, the permutation
each stage makes, and what the four compose to.
-/

namespace Sys2Proof.Machine

/-! ### LDT (R100 to R102) -/

/-- Settles O12: the short case is the hold, the long one the load of the 64 oldest colours. -/
theorem ldtLoadsColumnByColumn : Obligations.LdtLoadsColumnByColumn := by
  refine fun s => ⟨execLdt_of_short, fun hlong => ?_⟩
  obtain ⟨loaded, hcells, hexec⟩ := execLdt_loads hlong
  exact ⟨(s.takeTile loaded).goTo .rot, hexec, hcells, rfl, offset_toNat s.tx, offset_toNat s.ty, rfl, s.restore_load ..⟩

/-- A step that changes nothing is repeated for ever. -/
theorem run_of_step_self {s : State} (h : step s = .next s) (n : Nat) : core.run n s = .next s := by
  induction n with
  | zero => rfl
  | succ n ih => rw [run_of_step h, ih]

/-- Settles O13: the hold is a step from the state to itself, so every run of it stays. -/
theorem ldtHoldsForEverWithoutColours : Obligations.LdtHoldsForEverWithoutColours := by
  intro s hshort
  have hhold : exec .ldt s = .next s := execLdt_of_short hshort
  refine ⟨hhold, fun hphase herr hturns => run_of_step_self ?_⟩
  have hfetch : s.fetch = .ok .ldt := State.fetch_eq_ok.2 ⟨herr, decode_eq_ok.2 hphase⟩
  exact (step_of_engine_turn hfetch (State.takeTurn_of_nil hturns)).trans hhold

/-! ### Permutations of a tile (R10 `par`, R113) -/

/-- Two permutations whose sources cancel leave the tile as it was. -/
theorem Tile.permute_permute_of_cancel {f g : Fin 8 → Fin 8 → Fin 8 × Fin 8}
    (h : ∀ c r, f (g c r).1 (g c r).2 = (c, r)) (t : Tile) : (t.permute f).permute g = t :=
  Tile.ext_cell fun c r => by rw [Tile.cell_permute, Tile.cell_permute, h]

/-- A permutation that makes the same square as its inverse is, three times, its inverse: one of the two inverses it leaves
cancels against the third. -/
theorem Tile.permute_thrice_of_square {f g : Fin 8 → Fin 8 → Fin 8 × Fin 8} (hcancel : ∀ c r, g (f c r).1 (f c r).2 = (c, r))
    (hsquare : ∀ c r, f (f c r).1 (f c r).2 = g (g c r).1 (g c r).2) (t : Tile) :
    ((t.permute f).permute f).permute f = t.permute g := by
  have htwice : (t.permute f).permute f = (t.permute g).permute g :=
    Tile.ext_cell fun c r => by simp only [Tile.cell_permute, hsquare]
  rw [htwice, Tile.permute_permute_of_cancel hcancel]

/-- A permutation that moves a cell changes some tile: one that holds its only mark in that cell. -/
theorem Tile.exists_permute_ne {source : Fin 8 → Fin 8 → Fin 8 × Fin 8} {c r : Fin 8} (h : source c r ≠ (c, r)) :
    ∃ t : Tile, t.permute source ≠ t := by
  refine ⟨Tile.tabulate fun c' r' => if (c', r') = (c, r) then 1 else 0, fun e => ?_⟩
  have hcell := congrArg (fun t : Tile => t.cell c r) e
  simp only [Tile.cell_permute, Tile.cell_tabulate, Prod.mk.eta, if_neg h, if_true] at hcell
  exact absurd hcell (by decide)

/-- The registers of a tile in order are its cells in the order of the load (R21, R100). -/
theorem Tile.toList_eq_map_cell (t : Tile) : t.toList = tileCoords.map fun p => t.cell p.1 p.2 := by
  have hcoords : ∀ i : Fin 64, tileCoords[i.val]? = some (⟨i.val / 8, by omega⟩, ⟨i.val % 8, by omega⟩) := by decide
  refine List.ext_getElem (by simp [tileCoords]) fun i hi _ => ?_
  have hi64 : i < 64 := by simpa using hi
  obtain ⟨_, hcoord⟩ := List.getElem?_eq_some_iff.1 (hcoords ⟨i, hi64⟩)
  have hindex : 8 * (i / 8) + i % 8 = i := Nat.div_add_mod i 8
  simp [hcoord, Tile.cell, hindex]

/-- A permutation with a source map onto all cells keeps every colour as often as it was. -/
theorem Tile.permute_perm {source : Fin 8 → Fin 8 → Fin 8 × Fin 8}
    (h : Function.Surjective fun p : Fin 8 × Fin 8 => source p.1 p.2) (t : Tile) :
    (t.permute source).toList.Perm t.toList := by
  have hsources : (tileCoords.map fun p => source p.1 p.2).Perm tileCoords := by
    refine (List.perm_ext_iff_of_nodup (tileCoords_nodup.map (Finite.injective_iff_surjective.2 h)) tileCoords_nodup).2 fun p => ?_
    obtain ⟨q, hq⟩ := h p
    exact iff_of_true (List.mem_map.2 ⟨q, mem_tileCoords q, hq⟩) (mem_tileCoords p)
  have hcells := hsources.map fun p => t.cell p.1 p.2
  rw [List.map_map] at hcells
  simpa only [Tile.toList_eq_map_cell, Tile.cell_permute, Function.comp_def] using hcells

/-- Sources that another map cancels reach every cell. -/
theorem surjective_of_cancel {f g : Fin 8 → Fin 8 → Fin 8 × Fin 8} (h : ∀ c r, f (g c r).1 (g c r).2 = (c, r)) :
    Function.Surjective fun p : Fin 8 × Fin 8 => f p.1 p.2 :=
  fun p => ⟨g p.1 p.2, h p.1 p.2⟩

/-! ### ROT (R103, R104) -/

/-- In the block whose upper-left cell is `(c, r)` every corner takes its colour from the one clockwise of it. -/
theorem rotSource_block {c r : Fin 8} (hc : c.val % 2 = 0) (hr : r.val % 2 = 0) :
    rotSource c r = (c + 1, r) ∧ rotSource (c + 1) r = (c + 1, r + 1) ∧
    rotSource (c + 1) (r + 1) = (c, r + 1) ∧ rotSource c (r + 1) = (c, r) := by
  revert c r
  decide

theorem Tile.cell_rot_block (t : Tile) {c r : Fin 8} (hc : c.val % 2 = 0) (hr : r.val % 2 = 0) :
    (t.permute rotSource).cell c r = t.cell (c + 1) r ∧
    (t.permute rotSource).cell (c + 1) r = t.cell (c + 1) (r + 1) ∧
    (t.permute rotSource).cell (c + 1) (r + 1) = t.cell c (r + 1) ∧
    (t.permute rotSource).cell c (r + 1) = t.cell c r := by
  obtain ⟨ul, ur, dr, dl⟩ := rotSource_block hc hr
  simp only [Tile.cell_permute, ul, ur, dr, dl, and_self]

/-- The closed form of R103. -/
theorem rotSource_closed_form : ∀ c r : Fin 8,
    (rotSource c r).1.val = (c.val &&& 6) ||| (1 - (r.val &&& 1)) ∧ (rotSource c r).2.val = (r.val &&& 6) ||| (c.val &&& 1) := by
  decide

/-- No cell is its own source, and none is the source of its source. -/
theorem rotSource_moves : ∀ c r : Fin 8,
    rotSource c r ≠ (c, r) ∧ rotSource (rotSource c r).1 (rotSource c r).2 ≠ (c, r) := by
  decide

theorem rotSource_rotInverseSource : ∀ c r : Fin 8,
    rotSource (rotInverseSource c r).1 (rotInverseSource c r).2 = (c, r) := by
  decide

theorem rotInverseSource_rotSource : ∀ c r : Fin 8,
    rotInverseSource (rotSource c r).1 (rotSource c r).2 = (c, r) := by
  decide

/-- Twice ROT and twice its inverse have the same sources: each is the half turn of every block. -/
theorem rotSource_square : ∀ c r : Fin 8,
    rotSource (rotSource c r).1 (rotSource c r).2 = rotInverseSource (rotInverseSource c r).1 (rotInverseSource c r).2 := by
  decide

/-- Settles O14: the corners of a block, and the closed form of the source. -/
theorem rotTurnsEveryBlock : Obligations.RotTurnsEveryBlock := by
  intro s
  refine ⟨(s.setTile (s.tile.permute rotSource)).goTo .qsw, rfl, fun a b => ?_, fun c r c' r' hc hr => ?_, rfl,
    s.restore_tile ..⟩
  · exact s.tile.cell_rot_block (Nat.mul_mod_right 2 a.val) (Nat.mul_mod_right 2 b.val)
  · obtain ⟨hcolumn, hrow⟩ := rotSource_closed_form c r
    have hsource : rotSource c r = (c', r') := Prod.ext (Fin.ext (hcolumn.trans hc.symm)) (Fin.ext (hrow.trans hr.symm))
    rw [State.goTo_tile, State.setTile_tile, Tile.cell_permute, hsource]

/-- ROT twice is the half turn of every block, and three times the clockwise rotation (R104). -/
theorem Tile.cell_rot_block_again (t : Tile) {c r : Fin 8} (hc : c.val % 2 = 0) (hr : r.val % 2 = 0) :
    let twice := (t.permute rotSource).permute rotSource
    let thrice := twice.permute rotSource
    twice.cell c r = t.cell (c + 1) (r + 1) ∧ twice.cell (c + 1) r = t.cell c (r + 1) ∧
    twice.cell (c + 1) (r + 1) = t.cell c r ∧ twice.cell c (r + 1) = t.cell (c + 1) r ∧
    thrice.cell c r = t.cell c (r + 1) ∧ thrice.cell (c + 1) r = t.cell c r ∧
    thrice.cell (c + 1) (r + 1) = t.cell (c + 1) r ∧ thrice.cell c (r + 1) = t.cell (c + 1) (r + 1) := by
  intro twice thrice
  obtain ⟨ul, ur, dr, dl⟩ := t.cell_rot_block hc hr
  obtain ⟨ul2, ur2, dr2, dl2⟩ := (t.permute rotSource).cell_rot_block hc hr
  obtain ⟨ul3, ur3, dr3, dl3⟩ := twice.cell_rot_block hc hr
  exact ⟨ul2.trans ur, ur2.trans dr, dr2.trans dl, dl2.trans ul,
    ul3.trans (ur2.trans dr), ur3.trans (dr2.trans dl), dr3.trans (dl2.trans ul), dl3.trans (ul2.trans ur)⟩

/-- Settles O19: three times is the inverse, because the half turn is its own; a fourth time then cancels it. -/
theorem rotHasOrderFour : Obligations.RotHasOrderFour := by
  have hthrice := Tile.permute_thrice_of_square rotInverseSource_rotSource rotSource_square
  have hleft := Tile.permute_permute_of_cancel rotInverseSource_rotSource
  refine ⟨rotSource_moves, ?_, fun t => ⟨fun a b => ?_, hthrice t, ?_,
    t.permute_permute_of_cancel rotSource_rotInverseSource, hleft t⟩⟩
  · simp only [Tile.permute_permute]
    exact Tile.exists_permute_ne (rotSource_moves 0 0).2
  · exact t.cell_rot_block_again (Nat.mul_mod_right 2 a.val) (Nat.mul_mod_right 2 b.val)
  · exact (congrArg _ (hthrice t)).trans (hleft t)

/-! ### QSW (R105, R106) -/

theorem qswSource_of_upper {c r : Fin 8} (hc : 4 ≤ c.val) (hr : r.val < 4) : qswSource c r = (c - 4, r + 4) :=
  if_pos ⟨hc, hr⟩

theorem qswSource_qswSource : ∀ c r : Fin 8, qswSource (qswSource c r).1 (qswSource c r).2 = (c, r) := by
  decide

theorem qswSource_eq_self_iff : ∀ c r : Fin 8, qswSource c r = (c, r) ↔ (c.val < 4 ↔ r.val < 4) := by
  decide

/-- Settles O15: the two cells of a pair are each other's source, and the other quadrants are their own. -/
theorem qswSwapsTwoQuadrants : Obligations.QswSwapsTwoQuadrants := by
  intro s
  refine ⟨(s.setTile (s.tile.permute qswSource)).goTo .mcs, rfl, fun c r hc hr => ?_, fun c r hquadrant => ?_, rfl,
    s.restore_tile ..⟩
  · have hupper := qswSource_of_upper hc hr
    have hlower := qswSource_qswSource c r
    rw [hupper] at hlower
    simp only [State.goTo_tile, State.setTile_tile, Tile.cell_permute, hupper, hlower, and_self]
  · exact State.stage_cell_of_fixed rfl ((qswSource_eq_self_iff c r).2 hquadrant)

/-! ### MCS (R107, R108) -/

theorem mcsSource_mcsSource : ∀ c r : Fin 8, mcsSource (mcsSource c r).1 (mcsSource c r).2 = (c, r) := by
  decide

theorem mcsSource_eq_self_iff : ∀ c r : Fin 8, mcsSource c r = (c, r) ↔ c.val < 2 ∨ 5 < c.val := by
  decide

/-- The closed form of R107 for columns 2 to 5: the source column is `c XOR 6`. -/
theorem mcsSource_of_middle : ∀ c c' r : Fin 8, 2 ≤ c.val → c.val ≤ 5 → c'.val = c.val ^^^ 6 → mcsSource c r = (c', r) := by
  decide

/-- Settles O16: every column has its source by the table; in the middle the table is the closed form. -/
theorem mcsSwapsMiddleColumnPairs : Obligations.McsSwapsMiddleColumnPairs := by
  intro s
  refine ⟨(s.setTile (s.tile.permute mcsSource)).goTo .rgs, rfl, fun r => ?_, fun c c' r hlow hhigh hclosed => ?_, rfl,
    s.restore_tile ..⟩
  · simp only [State.goTo_tile, State.setTile_tile, Tile.cell_permute]
    exact ⟨rfl, rfl, rfl, rfl, rfl, rfl, rfl, rfl⟩
  · rw [State.goTo_tile, State.setTile_tile, Tile.cell_permute, mcsSource_of_middle c c' r hlow hhigh hclosed]

/-- Settles O20: both source maps cancel themselves; the fixed cells are those of the two lemmas above. -/
theorem qswAndMcsAreInvolutions : Obligations.QswAndMcsAreInvolutions :=
  ⟨Tile.permute_permute_of_cancel qswSource_qswSource, qswSource_eq_self_iff,
    Tile.permute_permute_of_cancel mcsSource_mcsSource, mcsSource_eq_self_iff⟩

/-! ### RGS (R109, R110) -/

/-- No cell is its own source, and none is the source of its source. -/
theorem rgsSource_moves : ∀ c r : Fin 8,
    rgsSource c r ≠ (c, r) ∧ rgsSource (rgsSource c r).1 (rgsSource c r).2 ≠ (c, r) := by
  decide

theorem rgsSource_rgsInverseSource : ∀ c r : Fin 8,
    rgsSource (rgsInverseSource c r).1 (rgsInverseSource c r).2 = (c, r) := by
  decide

theorem rgsInverseSource_rgsSource : ∀ c r : Fin 8,
    rgsInverseSource (rgsSource c r).1 (rgsSource c r).2 = (c, r) := by
  decide

/-- Twice RGS and twice its inverse have the same sources: each exchanges rows 0 and 3, 1 and 2, 4 and 7, 5 and 6. -/
theorem rgsSource_square : ∀ c r : Fin 8,
    rgsSource (rgsSource c r).1 (rgsSource c r).2 = rgsInverseSource (rgsInverseSource c r).1 (rgsInverseSource c r).2 := by
  decide

/-- Settles O17: every row has its source by the table. -/
theorem rgsReordersRowsOfEachHalf : Obligations.RgsReordersRowsOfEachHalf := by
  intro s
  refine ⟨(s.setTile (s.tile.permute rgsSource)).goTo .plt, rfl, fun c => ?_, rfl, s.restore_tile ..⟩
  simp only [State.goTo_tile, State.setTile_tile, Tile.cell_permute]
  exact ⟨rfl, rfl, rfl, rfl, rfl, rfl, rfl, rfl⟩

/-- Settles O21: three times is the inverse, as for ROT; a fourth time then cancels it. -/
theorem rgsHasOrderFour : Obligations.RgsHasOrderFour := by
  have hthrice := Tile.permute_thrice_of_square rgsInverseSource_rgsSource rgsSource_square
  have hleft := Tile.permute_permute_of_cancel rgsInverseSource_rgsSource
  refine ⟨rgsSource_moves, ?_, fun t => ⟨(congrArg _ (hthrice t)).trans (hleft t),
    t.permute_permute_of_cancel rgsSource_rgsInverseSource, hleft t, fun c => ?_⟩⟩
  · simp only [Tile.permute_permute]
    exact Tile.exists_permute_ne (rgsSource_moves 0 0).2
  · simp only [Tile.cell_permute]
    exact ⟨rfl, rfl, rfl, rfl, rfl, rfl, rfl, rfl⟩

/-! ### The four stages (R111 to R113) -/

/-- What two operations that write `T` and `PHASE` only leave unchanged stays over both. -/
theorem State.restore_tile_trans {s t u : State} (hst : { t with tile := s.tile, phase := s.phase } = s)
    (htu : { u with tile := t.tile, phase := t.phase } = t) : { u with tile := s.tile, phase := s.phase } = s :=
  calc
    { u with tile := s.tile, phase := s.phase }
    _ = { { u with tile := t.tile, phase := t.phase } with tile := s.tile, phase := s.phase } := rfl
    _ = { t with tile := s.tile, phase := s.phase } := by rw [htu]
    _ = s := hst

/-- A stage always answers a next state, with the permuted tile and the rest unchanged (R113). -/
theorem State.exists_stage (source : Fin 8 → Fin 8 → Fin 8 × Fin 8) (following : Instr) (s : State) :
    ∃ t : State, s.stage source following = .next t ∧ t.tile = s.tile.permute source ∧
      { t with tile := s.tile, phase := s.phase } = s :=
  ⟨_, rfl, rfl, s.restore_tile ..⟩

/-- Register `8*c + r` of a tile is its cell at column `c`, row `r` (R21). -/
theorem Tile.getElem?_eq_cell (t : Tile) (c r : Fin 8) : t[8 * c.val + r.val]? = some (t.cell c r) :=
  Vector.getElem?_eq_getElem _

/-- Settles O22: the four stages run one after another, and the tile they leave is the rearranged one. -/
theorem fourStagesComposeToMorton : Obligations.FourStagesComposeToMorton := by
  intro s
  obtain ⟨s1, hexec1, htile1, hframe1⟩ := s.exists_stage rotSource .qsw
  obtain ⟨s2, hexec2, htile2, hframe2⟩ := s1.exists_stage qswSource .mcs
  obtain ⟨s3, hexec3, htile3, hframe3⟩ := s2.exists_stage mcsSource .rgs
  obtain ⟨s4, hexec4, htile4, hframe4⟩ := s3.exists_stage rgsSource .plt
  refine ⟨s1, s2, s3, s4, hexec1, hexec2, hexec3, hexec4, fun c r => ?_,
    State.restore_tile_trans hframe1 (State.restore_tile_trans hframe2 (State.restore_tile_trans hframe3 hframe4))⟩
  have hrearranged : s4.tile = s.tile.rearrange := by rw [htile4, htile3, htile2, htile1, Tile.rearrange]
  obtain ⟨c', r', hindex, hcell⟩ := s.tile.cell_rearrange c r
  rw [hrearranged, hcell, ← hindex, Tile.getElem?_eq_cell]

/-- Settles O23: a stage always answers, and the sources of each reach every cell. -/
theorem stagesKeepTheMultisetOfColours : Obligations.StagesKeepTheMultisetOfColours := by
  intro i s hi
  have hstage : ∃ source following, exec i s = s.stage source following ∧
      Function.Surjective fun p : Fin 8 × Fin 8 => source p.1 p.2 := by
    simp only [List.mem_cons, List.not_mem_nil, or_false] at hi
    rcases hi with rfl | rfl | rfl | rfl
    · exact ⟨rotSource, .qsw, rfl, surjective_of_cancel rotSource_rotInverseSource⟩
    · exact ⟨qswSource, .mcs, rfl, surjective_of_cancel qswSource_qswSource⟩
    · exact ⟨mcsSource, .rgs, rfl, surjective_of_cancel mcsSource_mcsSource⟩
    · exact ⟨rgsSource, .plt, rfl, surjective_of_cancel rgsSource_rgsInverseSource⟩
  obtain ⟨source, following, hexec, hsurjective⟩ := hstage
  exact ⟨_, hexec, Tile.permute_perm hsurjective s.tile⟩

end Sys2Proof.Machine
end

section
/-!
PROOFS. The frame buffer assembler (42_raster_assembler.md): PLT and its walk over the grid, MIR and its form by exchanges, CRP.
-/

namespace Sys2Proof.Machine

/-! ### PLT (R120, R122) -/

@[simp] theorem State.advance_frame (s : State) : s.advance.frame = s.frame := by
  obtain ⟨x, y, following, e⟩ := s.advance_eq
  rw [e, State.goTo_frame, State.setPosition_frame]

@[simp] theorem State.advance_width (s : State) : s.advance.width = s.width := by
  obtain ⟨x, y, following, e⟩ := s.advance_eq
  rw [e, State.goTo_width, State.setPosition_width]

@[simp] theorem State.advance_height (s : State) : s.advance.height = s.height := by
  obtain ⟨x, y, following, e⟩ := s.advance_eq
  rw [e, State.goTo_height, State.setPosition_height]

/-- The next tile of the row, while there is one (R122). -/
theorem State.advance_in_row {s : State} (h : s.tx.toNat + 1 < s.tilesAcross) :
    s.advance.tx.toNat = s.tx.toNat + 1 ∧ s.advance.ty = s.ty ∧ s.advance.phase = encode .ldt := by
  have hacross : s.tilesAcross ≤ 65535 / 8 := Nat.div_le_div_right (Nat.le_of_lt_succ s.width.isLt)
  rw [State.advance, if_pos h]
  exact ⟨tileCount_succ hacross h, rfl, rfl⟩

/-- After the last tile of a row the first one of the next row, while there is one (R122). -/
theorem State.advance_to_next_row {s : State} (hrow : ¬ s.tx.toNat + 1 < s.tilesAcross) (h : s.ty.toNat + 1 < s.tilesDown) :
    s.advance.tx = 0 ∧ s.advance.ty.toNat = s.ty.toNat + 1 ∧ s.advance.phase = encode .ldt := by
  have hdown : s.tilesDown ≤ 65535 / 8 := Nat.div_le_div_right (Nat.le_of_lt_succ s.height.isLt)
  rw [State.advance, if_neg hrow, if_pos h]
  exact ⟨rfl, tileCount_succ hdown h, rfl⟩

/-- After the last tile of the last row the mirror (R122). -/
theorem State.advance_to_mirror {s : State} (hrow : ¬ s.tx.toNat + 1 < s.tilesAcross)
    (hcolumn : ¬ s.ty.toNat + 1 < s.tilesDown) : s.advance = s.goTo .mir := by
  rw [State.advance, if_neg hrow, if_neg hcolumn]

/-- Settles O25: PLT writes its tile and then advances, and the advance goes one of three ways. -/
theorem pltPlacesTheTileAndAdvances : Obligations.PltPlacesTheTileAndAdvances := by
  intro s hx hy
  have hinside : s.tileInFrame = true := by simp [State.tileInFrame, hx, hy]
  have hexec : exec .plt s = _ := execPlt_inside hinside
  have hcells := State.read_tileWrites hinside
  obtain ⟨hrestore, hother⟩ := execPlt_restore hexec
  generalize s.frame.writeAll s.tileWrites = m at hexec hcells hrestore hother
  refine ⟨(s.setFrame m).advance, hexec, fun c r => ?cells, hother, ?inRow, ?nextRow, ?mirror, hrestore⟩
  case cells =>
    rw [State.advance_frame]
    exact hcells c r
  case inRow => exact State.advance_in_row (s := s.setFrame m)
  case nextRow => exact State.advance_to_next_row (s := s.setFrame m)
  case mirror =>
    intro hrow hcolumn
    rw [State.advance_to_mirror (s := s.setFrame m) hrow hcolumn]
    exact ⟨rfl, rfl, rfl⟩

/-- Settles O27: by the walk of the advance, from the state with the tile placed, which has the same position and grid. -/
theorem pltWalksTheGridInOrder : Obligations.PltWalksTheGridInOrder := by
  intro s t hx hy hexec
  obtain ⟨-, rfl⟩ := execPlt_next hexec
  have hnumber : s.tileNumber < s.tilesAcross * s.tilesDown := linearAddress_lt_area hx hy
  generalize s.frame.writeAll s.tileWrites = m
  have hacross : (s.setFrame m).advance.tilesAcross = s.tilesAcross := by simp [State.tilesAcross]
  have hdown : (s.setFrame m).advance.tilesDown = s.tilesDown := by simp [State.tilesDown]
  rw [hacross, hdown]
  rcases State.advance_walk (s := s.setFrame m) hx hy with ⟨hmore, hnext⟩ | ⟨hend, -, e⟩
  · exact ⟨fun _ => hnext, fun hend => absurd hend hmore.ne, hnumber⟩
  · exact ⟨fun hmore => absurd hend hmore.ne, fun _ => e ▸ ⟨rfl, rfl⟩, hnumber⟩

/-! ### MIR (R124) -/

/-- MIR answers only on a frame whose cells are all written. -/
theorem State.frameWritten_of_execMir {s t : State} (h : execMir s = .next t) : s.FrameWritten := by
  obtain ⟨colours, hcolours, -⟩ := execMir_next h
  intro x y hx hy
  have himage : s.width.toNat - 1 - (s.width.toNat - 1 - x) = x := by omega
  have hmirror : cellAddress x y ∈ s.mirrorCells := by
    refine List.mem_map.2 ⟨(s.width.toNat - 1 - x, y), mem_scanCoords.2 ⟨?_, hy⟩, congrArg (cellAddress · y) himage⟩
    simp only
    omega
  have hread : s.frame.read (cellAddress x y) ∈ colours.map some :=
    Memory.readAll_eq_some.1 hcolours ▸ List.mem_map_of_mem hmirror
  obtain ⟨v, -, hv⟩ := List.mem_map.1 hread
  exact hv ▸ rfl

/-- Settles O28: on a written frame MIR answers with the mirror images, and it writes cells of the frame only. -/
theorem mirReflectsTheFrame : Obligations.MirReflectsTheFrame := by
  intro s hwritten
  obtain ⟨m, hexec, hmirror⟩ := execMir_of_written hwritten
  obtain ⟨hrestore, hother⟩ := execMir_restore hexec
  refine ⟨(s.setFrame m).goTo .crp, hexec, hmirror, fun a houtside => hother a fun ha => ?_, rfl, hrestore⟩
  obtain ⟨x, y, hx, hy, e⟩ := State.mem_frameCells.1 ha
  exact houtside x y hx hy e

/-! ### The mirror by exchanges (R125) -/

theorem Memory.exchange_wf {m : Memory} (a b : Nat) (h : m.wf) : (m.exchange a b).wf := by
  unfold Memory.exchange
  split
  · exact Memory.write_wf _ _ (Memory.write_wf _ _ h)
  · exact h

/-- An exchange reaches no other cell. -/
theorem Memory.read_exchange_other (m : Memory) {a b k : Nat} (ha : k ≠ a) (hb : k ≠ b) :
    (m.exchange a b).read k = m.read k := by
  unfold Memory.exchange
  split
  · rw [Memory.read_write_other _ _ hb, Memory.read_write_other _ _ ha]
  · rfl

/-- Two written cells exchange their colours. -/
theorem Memory.read_exchange {m : Memory} {a b : Nat} (ha : (m.read a).isSome = true) (hb : (m.read b).isSome = true) :
    (m.exchange a b).read a = m.read b ∧ (m.exchange a b).read b = m.read a := by
  obtain ⟨u, hu⟩ := Option.isSome_iff_exists.1 ha
  obtain ⟨v, hv⟩ := Option.isSome_iff_exists.1 hb
  simp only [Memory.exchange, hu, hv, Memory.read_write, if_true, and_true]
  split
  next e => rw [← hu, ← hv, e]
  next => rfl

/-- Pairs of cells exchanged one after another. -/
def Memory.exchangeAll (m : Memory) (pairs : List (Nat × Nat)) : Memory :=
  pairs.foldl (fun m p => m.exchange p.1 p.2) m

theorem Memory.exchangeAll_wf {pairs : List (Nat × Nat)} {m : Memory} (h : m.wf) : (m.exchangeAll pairs).wf := by
  induction pairs generalizing m with
  | nil => exact h
  | cons p pairs ih => exact ih (Memory.exchange_wf _ _ h)

/-- A cell of no pair reads as before. -/
theorem Memory.read_exchangeAll_other {pairs : List (Nat × Nat)} {m : Memory} {k : Nat}
    (h : ∀ p ∈ pairs, k ≠ p.1 ∧ k ≠ p.2) : (m.exchangeAll pairs).read k = m.read k := by
  induction pairs generalizing m with
  | nil => rfl
  | cons p pairs ih =>
    obtain ⟨hfst, hsnd⟩ := h p List.mem_cons_self
    exact (ih fun q hq => h q (List.mem_cons_of_mem _ hq)).trans (m.read_exchange_other hfst hsnd)

/-- Two pairs have no cell in common. -/
def Apart (p q : Nat × Nat) : Prop := (p.1 ≠ q.1 ∧ p.1 ≠ q.2) ∧ p.2 ≠ q.1 ∧ p.2 ≠ q.2

/-- Pairs apart from each other: the cells of each exchange their colours, whatever the order of the pairs. -/
theorem Memory.read_exchangeAll {pairs : List (Nat × Nat)} {m : Memory} (hapart : pairs.Pairwise Apart)
    (hwritten : ∀ p ∈ pairs, (m.read p.1).isSome = true ∧ (m.read p.2).isSome = true) {p : Nat × Nat} (hp : p ∈ pairs) :
    (m.exchangeAll pairs).read p.1 = m.read p.2 ∧ (m.exchangeAll pairs).read p.2 = m.read p.1 := by
  induction pairs generalizing m with
  | nil => cases hp
  | cons q pairs ih =>
    obtain ⟨hq, hpairs⟩ := List.pairwise_cons.1 hapart
    have hkept : ∀ r ∈ pairs, (m.exchange q.1 q.2).read r.1 = m.read r.1 ∧ (m.exchange q.1 q.2).read r.2 = m.read r.2 := by
      intro r hr
      obtain ⟨⟨h11, h12⟩, h21, h22⟩ := hq r hr
      exact ⟨m.read_exchange_other h11.symm h21.symm, m.read_exchange_other h12.symm h22.symm⟩
    rcases List.mem_cons.1 hp with rfl | hp
    · obtain ⟨hfst, hsnd⟩ := Memory.read_exchange (hwritten p List.mem_cons_self).1 (hwritten p List.mem_cons_self).2
      exact ⟨(Memory.read_exchangeAll_other fun r hr => (hq r hr).1).trans hfst,
        (Memory.read_exchangeAll_other fun r hr => (hq r hr).2).trans hsnd⟩
    · obtain ⟨hfst, hsnd⟩ := hkept p hp
      rw [← hfst, ← hsnd]
      refine ih hpairs (fun r hr => ?_) hp
      rw [(hkept r hr).1, (hkept r hr).2]
      exact hwritten r (List.mem_cons_of_mem _ hr)

/-- The pairs of R125: each cell of the left half of the frame with its mirror image. -/
def mirrorPairs (w h : Nat) : List (Nat × Nat) :=
  (scanCoords (w / 2) h).map fun p => (cellAddress p.1 p.2, cellAddress (w - 1 - p.1) p.2)

theorem mirrorByExchange_eq (w h : Nat) (m : Memory) : mirrorByExchange w h m = m.exchangeAll (mirrorPairs w h) := by
  rw [mirrorByExchange, Memory.exchangeAll, mirrorPairs, List.foldl_map]

theorem mem_mirrorPairs {w h : Nat} {q : Nat × Nat} :
    q ∈ mirrorPairs w h ↔ ∃ x y, x < w / 2 ∧ y < h ∧ q = (cellAddress x y, cellAddress (w - 1 - x) y) := by
  simp only [mirrorPairs, List.mem_map, Prod.exists, mem_scanCoords, and_assoc, eq_comm]

theorem mirrorPairs_apart {w : Nat} (hw : w ≤ 65536) (h : Nat) : (mirrorPairs w h).Pairwise Apart := by
  refine List.pairwise_map.2 ((scanCoords_nodup (w / 2) h).imp_of_mem fun {p q} hp hq hne => ?_)
  have hpx := (mem_scanCoords.1 hp).1
  have hqx := (mem_scanCoords.1 hq).1
  have hne' : ¬ (p.1 = q.1 ∧ p.2 = q.2) := fun e => hne (Prod.ext e.1 e.2)
  simp only [Apart, Ne]
  rw [cellAddress_inj, cellAddress_inj, cellAddress_inj, cellAddress_inj] <;> omega

section
variable {w h : Nat} {m : Memory} (hw : w ≤ 65536)
  (hwritten : ∀ x y, x < w → y < h → (m.read (cellAddress x y)).isSome = true)
include hw hwritten

/-- The exchanges of a written frame: a cell of the left half and its mirror image exchange their colours. -/
theorem read_mirrorByExchange_left {x y : Nat} (hx : x < w / 2) (hy : y < h) :
    (mirrorByExchange w h m).read (cellAddress x y) = m.read (cellAddress (w - 1 - x) y) ∧
    (mirrorByExchange w h m).read (cellAddress (w - 1 - x) y) = m.read (cellAddress x y) := by
  rw [mirrorByExchange_eq]
  refine Memory.read_exchangeAll (mirrorPairs_apart hw h) (fun p hp => ?_) (mem_mirrorPairs.2 ⟨x, y, hx, hy, rfl⟩)
  obtain ⟨x', y', hx', hy', rfl⟩ := mem_mirrorPairs.1 hp
  exact ⟨hwritten _ _ (by omega) hy', hwritten _ _ (by omega) hy'⟩

/-- So each cell takes what its mirror image held; the middle column of an odd width, which is in no pair, is its own image. -/
theorem read_mirrorByExchange {x y : Nat} (hx : x < w) (hy : y < h) :
    (mirrorByExchange w h m).read (cellAddress x y) = m.read (cellAddress (w - 1 - x) y) := by
  rcases Nat.lt_or_ge x (w / 2) with hleft | hnotLeft
  · exact (read_mirrorByExchange_left hw hwritten hleft hy).1
  rcases Nat.lt_or_ge (w - 1 - x) (w / 2) with hright | hmiddle
  · have hread := (read_mirrorByExchange_left hw hwritten hright hy).2
    rwa [show w - 1 - (w - 1 - x) = x by omega] at hread
  · rw [show w - 1 - x = x by omega, mirrorByExchange_eq]
    refine Memory.read_exchangeAll_other fun p hp => ?_
    obtain ⟨x', y', hx', hy', rfl⟩ := mem_mirrorPairs.1 hp
    simp only [Ne]
    rw [cellAddress_inj, cellAddress_inj] <;> omega

end

/-- Outside the frame the exchanges leave every cell as it was. -/
theorem State.read_mirrorByExchange_outside {s : State} {a : Nat} (ha : a ∉ s.frameCells) :
    (mirrorByExchange s.width.toNat s.height.toNat s.frame).read a = s.frame.read a := by
  rw [mirrorByExchange_eq]
  refine Memory.read_exchangeAll_other fun p hp => ?_
  obtain ⟨x, y, hx, hy, rfl⟩ := mem_mirrorPairs.1 hp
  have hinside : ∀ x', x' < s.width.toNat → a ≠ cellAddress x' y := fun x' hx' e =>
    ha (State.mem_frameCells.2 ⟨x', y, hx', hy, e⟩)
  exact ⟨hinside _ (by omega), hinside _ (by omega)⟩

/-- Settles O30: both frame buffers are canonical, and they read alike inside the frame and outside it. -/
theorem mirrorByExchangeIsMir : Obligations.MirrorByExchangeIsMir := by
  intro s t hwf hexec
  have hwritten := State.frameWritten_of_execMir hexec
  obtain ⟨m, hmir, hmirror⟩ := execMir_of_written hwritten
  obtain rfl : t = (s.setFrame m).goTo .crp := Host.Outcome.next.inj (hexec.symm.trans hmir)
  have hexchanged : (mirrorByExchange s.width.toNat s.height.toNat s.frame).wf := by
    rw [mirrorByExchange_eq]
    exact Memory.exchangeAll_wf hwf
  refine Memory.ext_read (exec_keeps_frame_wf hexec hwf) hexchanged fun a => ?_
  by_cases ha : a ∈ s.frameCells
  · obtain ⟨x, y, hx, hy, rfl⟩ := State.mem_frameCells.1 ha
    rw [read_mirrorByExchange (Nat.le_of_lt s.width.isLt) hwritten hx hy]
    exact hmirror x y hx hy
  · rw [State.read_mirrorByExchange_outside ha]
    exact (execMir_restore hexec).2 a ha

end Sys2Proof.Machine
end

section
/-!
PROOFS. The two rasters (42_raster_assembler.md, section 4): what a read-out answers, the streams in scan order, that nothing
but a read-out stops a run, and the run over one whole frame.
-/

namespace Sys2Proof.Machine

/-! ### One read-out (R128 to R131) -/

section
variable {s : State} {w h x y : Nat}

theorem State.readOut_before_done (hphase : s.phase ≠ encode .hlt) : s.readOut w h x y = .error .readOutBeforeDone := by
  simp [State.readOut, State.done, State.inPhase, hphase]

theorem State.readOut_outside (hphase : s.phase = encode .hlt) (hout : w ≤ x ∨ h ≤ y) :
    s.readOut w h x y = .error .readOutOutsideRaster := by
  have hnot : ¬ (x < w ∧ y < h) := by omega
  simp [State.readOut, State.done, State.inPhase, hphase, hnot]

theorem State.readOut_unwritten (hphase : s.phase = encode .hlt) (hx : x < w) (hy : y < h)
    (hread : s.frame.read (cellAddress x y) = none) : s.readOut w h x y = .error .unwrittenCell := by
  simp [State.readOut, State.done, State.inPhase, hphase, hx, hy, hread]

theorem State.readOut_written {v : Colour} (hphase : s.phase = encode .hlt) (hx : x < w) (hy : y < h)
    (hread : s.frame.read (cellAddress x y) = some v) : s.readOut w h x y = .ok (channels v) :=
  State.readOut_eq_ok.2 ⟨hphase, hx, hy, v, hread, rfl⟩

/-- With `DONE` set, `readOutOutsideRaster` is the answer outside the raster and nowhere else. -/
theorem State.readOut_outside_iff (hphase : s.phase = encode .hlt) :
    s.readOut w h x y ≠ .error .readOutOutsideRaster ↔ x < w ∧ y < h := by
  constructor
  · intro hne
    by_contra hout
    exact hne (State.readOut_outside hphase (by omega))
  · rintro ⟨hx, hy⟩
    cases hread : s.frame.read (cellAddress x y) with
    | none => rw [State.readOut_unwritten hphase hx hy hread]; decide
    | some v => rw [State.readOut_written hphase hx hy hread]; exact nofun

end

theorem State.deliver_eq_refused {s : State} {result : Except Refusal Pixel} {e : Refusal} :
    s.deliver result = .refused e ↔ result = .error e := by
  cases result <;> simp [State.deliver]

/-- Settles O32: each read-out is the model's `readOut` of its raster, on a written and on an unwritten cell. -/
theorem readOutsReturnTheChannelsOfTheCell : Obligations.ReadOutsReturnTheChannelsOfTheCell := by
  intro s x y v hphase hread delivered
  have hdelivered : s.deliver (.ok (channels v)) = delivered := rfl
  refine ⟨fun hx hy => ?_, fun hx hy => ?_, fun u huphase hnone => ⟨fun hx hy => ?_, fun hx hy => ?_⟩⟩
  · rw [performHost, State.fullPixel, State.readOut_written hphase hx hy hread, hdelivered]
  · rw [performHost, State.logicalPixel, State.readOut_written hphase hx hy hread, hdelivered]
  · exact State.deliver_eq_refused.2 (State.readOut_unwritten huphase hx hy hnone)
  · exact State.deliver_eq_refused.2 (State.readOut_unwritten huphase hx hy hnone)

/-- Settles O33: by the two refusals of `readOut`. -/
theorem readOutsElsewhereAreRefused : Obligations.ReadOutsElsewhereAreRefused := by
  refine fun s x y => ⟨fun hphase => ⟨?_, ?_⟩, fun hphase hout => ?_, fun hphase hout => ?_⟩
  · exact State.deliver_eq_refused.2 (State.readOut_before_done hphase)
  · exact State.deliver_eq_refused.2 (State.readOut_before_done hphase)
  · exact State.deliver_eq_refused.2 (State.readOut_outside hphase hout)
  · exact State.deliver_eq_refused.2 (State.readOut_outside hphase hout)

/-- Settles O31: after CRP the logical raster is the logical rectangle, and inside it both read-outs are of the same cell. -/
theorem crpOpensTheLogicalView : Obligations.CrpOpensTheLogicalView := by
  refine fun s => ⟨(s.setView s.lwidth s.lheight).goTo .hlt, rfl, rfl, rfl, fun x y => ⟨?_, fun hlx hly hx hy => ?_⟩⟩
  · rw [performHost, Ne, State.deliver_eq_refused]
    exact State.readOut_outside_iff rfl
  · have hsame := State.logicalPixel_eq_fullPixel (s := (s.setView s.lwidth s.lheight).goTo .hlt) hx hy hlx hly
    exact congrArg (State.deliver _) hsame

/-! ### A raster in scan order (R132, R209) -/

theorem scanCoords_succ (w h : Nat) : scanCoords w (h + 1) = scanCoords w h ++ (List.range w).map fun x => (x, h) := by
  simp [scanCoords, List.range_succ]

theorem length_scanCoords (w h : Nat) : (scanCoords w h).length = w * h := by
  simp [scanCoords, Nat.mul_comm]

/-- In scan order the pixel `(x, y)` stands at its linear address (R56, R132). -/
theorem getElem?_scanCoords {w h x y : Nat} (hx : x < w) (hy : y < h) :
    (scanCoords w h)[linearAddress w x y]? = some (x, y) := by
  induction h with
  | zero => omega
  | succ h ih =>
    rw [scanCoords_succ]
    rcases Nat.lt_or_ge y h with hbefore | hlast
    · rw [List.getElem?_append_left (by rw [length_scanCoords]; exact linearAddress_lt_area hx hbefore), ih hbefore]
    · obtain rfl : y = h := by omega
      have hrow : linearAddress w x y = (scanCoords w y).length + x := by
        rw [length_scanCoords, linearAddress, Nat.mul_comm]
      rw [hrow, List.getElem?_append_right (Nat.le_add_right ..), Nat.add_sub_cancel_left]
      simp [hx]

/-- A scan succeeds exactly when every read-out does, and then gives the pixels in order. -/
theorem scanOut_eq_ok {pixel : Nat → Nat → Except Refusal Pixel} {coords : List (Nat × Nat)} {ps : List Pixel} :
    scanOut pixel coords = .ok ps ↔ (coords.map fun p => pixel p.1 p.2) = ps.map .ok := by
  induction coords generalizing ps with
  | nil => cases ps <;> simp [scanOut]
  | cons p coords ih =>
    cases ps with
    | nil => simp only [scanOut]; split <;> simp
    | cons q ps =>
      simp only [scanOut, List.map_cons, List.cons.injEq, ← ih]
      split <;> simp [*]

/-- `stream` is the raster of `w` by `h` pixels in scan order: pixel `(x, y)` is number `y * w + x`, and there is no other. -/
def RowMajor (pixel : Nat → Nat → Except Refusal Pixel) (w h : Nat) (stream : List Pixel) : Prop :=
  stream.length = w * h ∧
  ∀ x y, x < w → y < h → ∃ p, stream[linearAddress w x y]? = some p ∧ pixel x y = .ok p

theorem exists_scanOut {pixel : Nat → Nat → Except Refusal Pixel} {coords : List (Nat × Nat)}
    (hok : ∀ p ∈ coords, ∃ q, pixel p.1 p.2 = .ok q) : ∃ ps, scanOut pixel coords = .ok ps := by
  induction coords with
  | nil => exact ⟨[], rfl⟩
  | cons p coords ih =>
    obtain ⟨q, hq⟩ := hok p List.mem_cons_self
    obtain ⟨ps, hps⟩ := ih fun r hr => hok r (List.mem_cons_of_mem _ hr)
    exact ⟨q :: ps, by rw [scanOut, hq, hps]⟩

/-- A raster all of whose read-outs succeed reads out as a whole, row by row. -/
theorem exists_scanOut_rowMajor {pixel : Nat → Nat → Except Refusal Pixel} {w h : Nat}
    (hok : ∀ x y, x < w → y < h → ∃ p, pixel x y = .ok p) :
    ∃ ps, scanOut pixel (scanCoords w h) = .ok ps ∧ RowMajor pixel w h ps := by
  obtain ⟨ps, hps⟩ := exists_scanOut fun p (hp : p ∈ scanCoords w h) => hok _ _ (mem_scanCoords.1 hp).1 (mem_scanCoords.1 hp).2
  have hpixels := scanOut_eq_ok.1 hps
  refine ⟨ps, hps, ?_, fun x y hx hy => ?_⟩
  · have hlength := congrArg List.length hpixels
    rwa [List.length_map, List.length_map, length_scanCoords, eq_comm] at hlength
  · have hnumber : (ps.map Except.ok)[linearAddress w x y]? = some (pixel x y) := by
      rw [← hpixels, List.getElem?_map, getElem?_scanCoords hx hy]
      rfl
    rw [List.getElem?_map] at hnumber
    obtain ⟨p, hp, e⟩ := Option.map_eq_some_iff.1 hnumber
    exact ⟨p, hp, e.symm⟩

/-- In a finished frame every pixel of the full raster reads out (R66, R129). -/
theorem State.Inv.exists_fullPixel {s : State} (h : s.Inv) (hphase : s.phase = encode .hlt) {x y : Nat}
    (hx : x < s.width.toNat) (hy : y < s.height.toNat) : ∃ p, s.fullPixel x y = .ok p := by
  obtain ⟨v, hv⟩ := Option.isSome_iff_exists.1 ((h.frame_complete hphase (by decide)).1 x y hx hy)
  exact ⟨_, State.fullPixel_eq_ok hphase hx hy hv⟩

/-- With `DONE` set the view is the logical rectangle (R37, R127). -/
theorem State.Inv.view_open {s : State} (h : s.Inv) (hphase : s.phase = encode .hlt) : s.vw = s.lwidth ∧ s.vh = s.lheight := by
  have hview := h.view
  rwa [if_pos hphase] at hview

/-- In a finished frame the logical raster is the upper-left part of the full one (R127, R130). -/
theorem State.Inv.logicalPixel_eq {s : State} (h : s.Inv) (hphase : s.phase = encode .hlt) {x y : Nat}
    (hx : x < s.lwidth.toNat) (hy : y < s.lheight.toNat) :
    x < s.width.toNat ∧ y < s.height.toNat ∧ s.logicalPixel x y = s.fullPixel x y := by
  obtain ⟨hvw, hvh⟩ := h.view_open hphase
  obtain ⟨-, -, -, -, hlwidth, hlheight, -⟩ := (h.working hphase (by decide)).dims_legal
  have hxw := hx.trans_le hlwidth
  have hyh := hy.trans_le hlheight
  exact ⟨hxw, hyh, State.logicalPixel_eq_fullPixel hxw hyh (hvw ▸ hx) (hvh ▸ hy)⟩

/-- Settles O53: every pixel of both rasters reads out, so each scan succeeds, in row-major order. -/
theorem rasterStreamsAreRowMajor : Obligations.RasterStreamsAreRowMajor := by
  intro s h (hphase : s.phase = encode .hlt)
  have hdone : s.done = true := State.inPhase_iff.2 hphase
  have hlogical : ∀ x y, x < s.lwidth.toNat → y < s.lheight.toNat → ∃ p, s.logicalPixel x y = .ok p := by
    intro x y hx hy
    obtain ⟨hxw, hyh, e⟩ := h.logicalPixel_eq hphase hx hy
    exact e ▸ h.exists_fullPixel hphase hxw hyh
  obtain ⟨full, hfull, hfullLength, hfullPixels⟩ := exists_scanOut_rowMajor fun _ _ => h.exists_fullPixel hphase
  obtain ⟨logical, hscan, hlogicalLength, hlogicalPixels⟩ := exists_scanOut_rowMajor hlogical
  obtain ⟨hvw, hvh⟩ := h.view_open hphase
  refine ⟨full, logical, (if_pos hdone).trans hfull, hfullLength, hfullPixels, ?_, hlogicalLength, fun x y hx hy => ?_⟩
  · rw [State.logicalRaster, if_pos hdone, hvw, hvh]
    exact hscan
  · obtain ⟨p, hp, hpixel⟩ := hlogicalPixels x y hx hy
    exact ⟨p, hp, hpixel, (h.logicalPixel_eq hphase hx hy).2.2.symm.trans hpixel⟩

/-! ### What cannot stop (R121, R161, R166, R176) -/

theorem State.exists_execChk (s : State) : ∃ t, execChk s = .next t := by
  unfold execChk
  split
  · exact ⟨_, rfl⟩
  · exact ⟨_, rfl⟩

/-- LDT holds or loads. -/
theorem State.exists_execLdt (s : State) : ∃ t, execLdt s = .next t := by
  rcases Nat.lt_or_ge s.input.length 64 with hshort | hlong
  · exact ⟨s, execLdt_of_short hshort⟩
  · obtain ⟨loaded, hload⟩ := execLdt_of_long hlong
    exact ⟨_, hload⟩

/-- In PLT the tile lies inside the frame (R121). -/
theorem State.Inv.tileInFrame {s : State} (h : s.Inv) (hphase : s.phase = encode .plt) : s.tileInFrame = true := by
  obtain ⟨hoffx, hoffy⟩ := (h.loaded hphase (by decide) (by decide)).offset
  obtain ⟨htx, hty⟩ := (h.working hphase (by decide)).position
  unfold State.tilesAcross at htx
  unfold State.tilesDown at hty
  simp only [State.tileInFrame, Bool.and_eq_true, decide_eq_true_eq]
  omega

/-- The operation in `PHASE` goes on: of all of them only PLT and MIR can stop, and the invariant excludes their reasons. -/
theorem State.Inv.exists_exec {s : State} (h : s.Inv) {i : Instr} (hphase : s.phase = encode i) : ∃ t, exec i s = .next t := by
  cases i
  case chk => exact s.exists_execChk
  case ldt => exact s.exists_execLdt
  case plt => exact ⟨_, execPlt_inside (h.tileInFrame hphase)⟩
  case mir =>
    obtain ⟨m, hmir, -⟩ := execMir_of_written (h.frame_complete hphase (by decide)).1
    exact ⟨_, hmir⟩
  all_goals exact ⟨_, rfl⟩

theorem exists_performHost {a : HostAction} (h : a.readsOut = false) (s : State) : ∃ t, performHost a s = .next t := by
  cases a
  case fbrd => cases h
  case lvrd => cases h
  all_goals exact ⟨_, rfl⟩

theorem State.Inv.errValueWf {s : State} (h : s.Inv) : errValueWf s.err = true := by
  have herr := h.err_cause
  rw [errValueWf_iff]
  split at herr
  · obtain ⟨hcode, hlow, hhigh⟩ := herr
    exact .inr ⟨by rw [hcode]; rfl, hlow, hhigh⟩
  · rw [herr]
    exact .inl (by decide)

/-- Settles O52: an operation is fetched, and it, or the host's action, goes on from the state without the turn taken. -/
theorem onlyReadOutsCanStop : Obligations.OnlyReadOutsCanStop := by
  intro s h
  obtain ⟨i, hi⟩ := State.exists_fetch h.phase_legal h.errValueWf
  obtain ⟨ts, hts⟩ := s.takeTurn_state
  refine ⟨fun hturn => ?engine, fun a hturn hreads => ?host⟩
  case engine =>
    have hinv : (s.setTurns ts).Inv := { h with }
    obtain ⟨t, ht⟩ := hinv.exists_exec (decode_eq_ok.1 (State.fetch_eq_ok.1 hi).2)
    exact ⟨t, (step_of_engine_turn hi (Prod.ext hturn hts)).trans ht⟩
  case host =>
    obtain ⟨t, ht⟩ := exists_performHost hreads (s.setTurns ts)
    exact ⟨t, (step_of_host_turn hi (Prod.ext hturn hts)).trans ht⟩

/-! ### The whole frame (R133, R149, R208) -/

/-- Settles O54: the run over the frame leaves CRP, and one step more finishes. -/
theorem wholeFrameIsTheClosedForm : Obligations.WholeFrameIsTheClosedForm := by
  intro s hphase herr hturns hlegal hinput
  obtain ⟨u, hrun, huphase, hsame, hlast, huinput, hframe⟩ := run_frame hphase herr hturns hlegal hinput
  have hcrp := step_crp_of_sameRun huphase hsame
  refine ⟨u, (u.setView s.lwidth s.lheight).goTo .hlt, hrun, huphase, ?_, rfl, rfl, rfl, ?_, ?_, huinput, hframe⟩
  · exact (run_add hrun 1).trans (run_of_step hcrp 0)
  · exact hsame.tilesAcross ▸ hlast.1
  · exact hsame.tilesDown ▸ hlast.2

end Sys2Proof.Machine
end

section
/-!
PROOFS. The sequencer and the control flow (43_sequencer_control.md): IDL, CHK, HLT and ERR, the host's commands, and the
successor table.
-/

namespace Sys2Proof.Machine

/-! ### IDL, HLT and ERR (R140, R145, R146) -/

/-- The three flags, by the operation in `PHASE` (R24). -/
theorem State.flags_of_phase {s : State} {i : Instr} (h : s.phase = encode i) :
    s.busy = (1 ≤ (encode i).toNat && (encode i).toNat ≤ 9) ∧
    s.done = (encode i == encode .hlt) ∧ s.faulted = (encode i == encode .err) := by
  simp only [State.busy, State.done, State.faulted, State.inPhase, h, and_self]

/-- Settles O7: the hold answers the state itself, and the code of IDL is none that sets a flag. -/
theorem idleHoldsWithNoFlagSet : Obligations.IdleHoldsWithNoFlagSet := by
  have hhold (s : State) : exec .idl s = .next s := rfl
  refine ⟨rfl, hhold, fun s hphase => State.flags_of_phase (i := .idl) hphase, fun s hphase herr hturns => ?silent⟩
  case silent =>
    have hfetch : s.fetch = .ok .idl := State.fetch_eq_ok.2 ⟨herr, decode_eq_ok.2 hphase⟩
    exact (step_of_engine_turn hfetch (State.takeTurn_of_nil hturns)).trans (hhold s)

/-- `STATUS` in HLT: `DONE` alone (R145). -/
theorem State.status_of_hlt {s : State} (h : s.phase = encode .hlt) : s.status = 2#16 := by
  obtain ⟨hbusy, hdone, hfaulted⟩ := State.flags_of_phase h
  rw [State.status, hbusy, hdone, hfaulted]
  rfl

/-- `STATUS` in ERR: `STATUS.ERR` alone (R146). -/
theorem State.status_of_err {s : State} (h : s.phase = encode .err) : s.status = 4#16 := by
  obtain ⟨hbusy, hdone, hfaulted⟩ := State.flags_of_phase h
  rw [State.status, hbusy, hdone, hfaulted]
  rfl

/-- Settles O8: both operations answer the state itself, and `STATUS` shows the one flag of the phase. -/
theorem terminalPhasesDoNothing : Obligations.TerminalPhasesDoNothing :=
  ⟨rfl, rfl, fun _ => rfl, fun _ => rfl, fun _ => State.status_of_hlt, fun _ => State.status_of_err⟩

/-! ### CHK (R143, R144, R170) -/

theorem badDimension_iff {v : Half} : badDimension v = true ↔ v.toNat = 0 ∨ v.toNat % 8 ≠ 0 := by
  simp [badDimension]

/-- The checks of R143 in their order, on the numbers the registers hold; the product does not overflow (R153). -/
theorem State.dimensionCause_eq (s : State) :
    s.dimensionCause =
      if s.width.toNat = 0 ∨ s.width.toNat % 8 ≠ 0 then some 1#4
      else if s.height.toNat = 0 ∨ s.height.toNat % 8 ≠ 0 then some 2#4
      else if s.width.toNat < s.lwidth.toNat then some 3#4
      else if s.height.toNat < s.lheight.toNat then some 4#4
      else if s.params.fbMaxPixels < s.width.toNat * s.height.toNat then some 5#4
      else none := by
  simp only [State.dimensionCause, badDimension_iff, gt_iff_lt, BitVec.lt_def, pixelCount_toNat]

theorem execChk_of_cause {s : State} {k : BitVec 4} (h : s.dimensionCause = some k) :
    execChk s = .next (s.raiseInvalidDimensions k) := by
  rw [execChk, h]

theorem execChk_of_no_cause {s : State} (h : s.dimensionCause = none) :
    execChk s = .next (((s.setPosition 0 0).setView 0 0).goTo .ldt) := by
  rw [execChk, h]

/-- Settles O9: in each clause the checks before the last one named pass, and that one decides the cause. -/
theorem chkPassesOrReportsTheLowestCause : Obligations.ChkPassesOrReportsTheLowestCause := by
  intro s
  have hcause := s.dimensionCause_eq
  refine ⟨fun hw => ?width, fun hw hh => ?height, fun hw hh hlw => ?wide, fun hw hh hlw hlh => ?high,
    fun hw hh hlw hlh hl => ?large, fun hw hh hlw hlh hl => ?legal⟩
  case width =>
    rw [if_pos hw] at hcause
    exact execChk_of_cause hcause
  case height =>
    rw [if_neg hw, if_pos hh] at hcause
    exact execChk_of_cause hcause
  case wide =>
    rw [if_neg hw, if_neg hh, if_pos hlw] at hcause
    exact execChk_of_cause hcause
  case high =>
    rw [if_neg hw, if_neg hh, if_neg hlw, if_pos hlh] at hcause
    exact execChk_of_cause hcause
  case large =>
    rw [if_neg hw, if_neg hh, if_neg hlw, if_neg hlh, if_pos hl] at hcause
    exact execChk_of_cause hcause
  case legal =>
    rw [if_neg hw, if_neg hh, if_neg hlw, if_neg hlh, if_neg hl] at hcause
    exact execChk_of_no_cause hcause

/-- The largest multiple of 8 in 16 bits is 65528 (R144 item f). -/
theorem toNat_le_of_multiple {v : Half} (h : v.toNat % 8 = 0) : v.toNat ≤ 65528 := by
  have := v.isLt
  omega

/-- Cause 5 is reported only for a frame above the capacity, with width and height as they should be (R162). -/
theorem State.frame_above_capacity {s : State} (h : s.dimensionCause = some 5#4) :
    s.width.toNat % 8 = 0 ∧ s.height.toNat % 8 = 0 ∧ s.params.fbMaxPixels < s.width.toNat * s.height.toNat := by
  rw [State.dimensionCause_eq] at h
  split_ifs at h with hw hh hlw hlh hlarge
  iterate 4 · exact absurd h (by decide)
  exact ⟨by omega, by omega, hlarge⟩

/-- Settles O11: two dimensions of at most 65528 do not exceed the default, which is the square of that. -/
theorem defaultCapacityNeverExceeded : Obligations.DefaultCapacityNeverExceeded := by
  intro s hparams hcause
  obtain ⟨hw, hh, hlarge⟩ := State.frame_above_capacity hcause
  have hsquare : s.width.toNat * s.height.toNat ≤ 65528 * 65528 :=
    Nat.mul_le_mul (toNat_le_of_multiple hw) (toNat_le_of_multiple hh)
  have hdefault : s.params.fbMaxPixels = 65528 * 65528 := by rw [hparams]; rfl
  omega

/-! ### START and `push` (R141, R155) -/

/-- Settles O38: by the three things a write of `CTRL` can do, of which the clear RST leaves two. -/
theorem startActsInIdleOnly : Obligations.StartActsInIdleOnly := by
  intro s v hrst
  have hwrite : performHost (.wr 0x0#4 v) s = .next (s.writeControl v) := rfl
  rw [hwrite]
  rcases s.writeControl_cases v with ⟨hset, -⟩ | ⟨-, hstart, hidle, e⟩ | ⟨-, hnone, e⟩
  · exact absurd hset (ne_true_of_eq_false hrst)
  · rw [e]
    exact ⟨fun _ _ => rfl, fun _ hbusy => absurd hidle hbusy, fun hclear => absurd hclear (ne_false_of_eq_true hstart)⟩
  · rw [e]
    exact ⟨fun hstart hidle => absurd hidle (hnone.resolve_left (ne_false_of_eq_true hstart)), fun _ _ => rfl, fun _ => rfl⟩

/-- Settles O41: a push is its one assignment, and the reset's state has an empty `IN`. -/
theorem pushAppendsInEveryPhase : Obligations.PushAppendsInEveryPhase := by
  refine ⟨fun s v => rfl, fun s t hreset => ?_⟩
  cases hreset
  exact s.resetBlock_input

/-! ### The successor table (R147) -/

/-- From LDT: hold, or go on to ROT (R100, R102). -/
theorem execLdt_successor {s t : State} (h : execLdt s = .next t) (hphase : s.phase = encode .ldt) :
    ∃ j, Successor .ldt s j ∧ t.phase = encode j := by
  rcases execLdt_next h with ⟨hshort, rfl⟩ | ⟨hlong, loaded, -, rfl⟩
  · exact ⟨.ldt, .inl ⟨hshort, rfl⟩, hphase⟩
  · exact ⟨.rot, .inr ⟨hlong, rfl⟩, rfl⟩

/-- From CHK: LDT when all checks pass, ERR when one fails (R143). -/
theorem execChk_successor {s t : State} (h : execChk s = .next t) : ∃ j, Successor .chk s j ∧ t.phase = encode j := by
  rcases execChk_next h with ⟨hlegal, rfl⟩ | ⟨k, hcause, rfl⟩
  · exact ⟨.ldt, .inl ⟨hlegal, rfl⟩, rfl⟩
  · have hillegal : ¬ s.DimensionsLegal := by simp [← State.dimensionCause_eq_none, hcause]
    exact ⟨.err, .inr ⟨hillegal, rfl⟩, rfl⟩

/-- From PLT: LDT while a tile remains, MIR after the last one (R122). -/
theorem execPlt_successor {s t : State} (h : execPlt s = .next t) : ∃ j, Successor .plt s j ∧ t.phase = encode j := by
  obtain ⟨-, rfl⟩ := execPlt_next h
  generalize s.frame.writeAll s.tileWrites = m
  rcases (s.setFrame m).advance_cases with ⟨hrow, e⟩ | ⟨-, hcolumn, e⟩ | ⟨hrow, hcolumn, e⟩ <;>
    rw [e]
  · exact ⟨.ldt, .inl ⟨.inl hrow, rfl⟩, rfl⟩
  · exact ⟨.ldt, .inl ⟨.inr hcolumn, rfl⟩, rfl⟩
  · exact ⟨.mir, .inr ⟨⟨hrow, hcolumn⟩, rfl⟩, rfl⟩

theorem exec_successor {i : Instr} {s t : State} (hphase : s.phase = encode i) (h : exec i s = .next t) :
    ∃ j, Successor i s j ∧ t.phase = encode j := by
  cases i
  case idl => cases h; exact ⟨_, rfl, hphase⟩
  case chk => exact execChk_successor h
  case ldt => exact execLdt_successor h hphase
  case rot => obtain rfl := State.stage_next h; exact ⟨_, rfl, rfl⟩
  case qsw => obtain rfl := State.stage_next h; exact ⟨_, rfl, rfl⟩
  case mcs => obtain rfl := State.stage_next h; exact ⟨_, rfl, rfl⟩
  case rgs => obtain rfl := State.stage_next h; exact ⟨_, rfl, rfl⟩
  case plt => exact execPlt_successor h
  case mir => obtain ⟨colours, -, rfl⟩ := execMir_next h; exact ⟨_, rfl, rfl⟩
  case crp => cases h; exact ⟨_, rfl, rfl⟩
  case hlt => cases h; exact ⟨_, rfl, hphase⟩
  case err => cases h; exact ⟨_, rfl, hphase⟩

/-- What a host action does to `PHASE`: a reset leads to IDL, START in IDL to CHK, and everything else leaves it (R141, R142). -/
theorem performHost_next_phase {a : HostAction} {s t : State} (h : performHost a s = .next t) :
    (a.resets = true ∧ a.starts = false ∧ t.phase = encode .idl) ∨
    (a.resets = false ∧ a.starts = true ∧ s.phase = encode .idl ∧ t.phase = encode .chk) ∨
    (a.resets = false ∧ (a.starts = false ∨ s.phase ≠ encode .idl) ∧ t.phase = s.phase) := by
  rcases performHost_next h with ⟨ha, hstarts, r, rfl⟩ | ⟨v, rfl, rfl⟩ | ⟨ha, hstarts, rfl⟩ | ⟨ha, hstarts, hidle, rfl⟩ |
    ⟨ha, hstarts, rfl⟩ | ⟨ha, hstarts, -, v, rfl | rfl | rfl | rfl⟩
  · exact .inr (.inr ⟨ha, .inl hstarts, rfl⟩)
  · exact .inr (.inr ⟨rfl, .inl rfl, rfl⟩)
  · exact .inl ⟨ha, hstarts, rfl⟩
  · exact .inr (.inl ⟨ha, hstarts, hidle, rfl⟩)
  · exact .inr (.inr ⟨ha, hstarts, rfl⟩)
  all_goals exact .inr (.inr ⟨ha, .inl hstarts, rfl⟩)

/-- Settles O42: the engine by its operation, the host by what its action does to `PHASE`. -/
theorem controlFlowIsTheSuccessorTable : Obligations.ControlFlowIsTheSuccessorTable := by
  refine ⟨fun i s t => exec_successor, fun a s t h => ?_⟩
  rcases performHost_next_phase h with ⟨ha, hstarts, ht⟩ | ⟨ha, hstarts, hidle, ht⟩ | ⟨ha, hnone, ht⟩
  · exact ⟨fun _ => ht, by simp [hstarts], by simp [ha]⟩
  · exact ⟨by simp [ha], fun _ _ => ht, fun _ h => absurd hidle (h.resolve_left (by simp [hstarts]))⟩
  · exact ⟨by simp [ha], fun hs hidle => absurd hidle (hnone.resolve_left (by simp [hs])), fun _ _ => ht⟩

/-! ### The terminal phases (R142, R145, R146, R173) -/

/-- The operation of a terminal phase answers the state itself (log 1). -/
theorem exec_of_terminal {i : Instr} (h : encode i = 0xA#4 ∨ encode i = 0xF#4) (s : State) : exec i s = .next s := by
  rcases h with h | h
  · obtain rfl : i = .hlt := encode_inj.1 h
    rfl
  · obtain rfl : i = .err := encode_inj.1 h
    rfl

/-- Settles O45: the engine's step there changes nothing, and a host action outside IDL reaches `PHASE`, `ERR` and `FB` by a
reset only. -/
theorem terminalPhasesAreLeftByResetOnly : Obligations.TerminalPhasesAreLeftByResetOnly := by
  intro s t hterminal hstep
  obtain ⟨ts, ⟨i, hphase, -, hexec⟩ | ⟨a, hturn, hhost⟩⟩ := step_next_setTurns hstep
  · rw [exec_of_terminal (hphase ▸ hterminal)] at hexec
    cases hexec
    exact .inl ⟨rfl, rfl, rfl⟩
  · rcases performHost_next_phase hhost with ⟨ha, -, ht⟩ | ⟨-, -, hidle, -⟩ | ⟨ha, -, ht⟩
    · exact .inr ⟨a, hturn, ha, ht⟩
    · rw [State.setTurns_phase] at hidle
      simp [hidle, encode] at hterminal
    · obtain ⟨-, -, -, hrest⟩ := hostActionsReachOnlyConfigurationStartAndInput a _ t hhost ha
      have herr := congrArg State.err hrest
      have hframe := congrArg State.frame hrest
      exact .inl ⟨ht, herr, hframe⟩

end Sys2Proof.Machine
end

section
/-!
PROOFS. Exceptions (60_exceptions.md): what raising `InvalidDimensions` writes, and the frame MIR refuses.
-/

namespace Sys2Proof.Machine

/-! ### Raising `InvalidDimensions` (R170) -/

/-- Settles O10: `ERR` holds the cause beside code 3, the flags are those of the phase ERR, and putting back the two fields
written gives the state before. -/
theorem raiseWritesErrAndPhaseOnly : Obligations.RaiseWritesErrAndPhaseOnly := by
  intro s cause t
  obtain ⟨hbusy, -, hfaulted⟩ := State.flags_of_phase (s := t) (i := .err) rfl
  exact ⟨errCode_errValue cause 3#4, errCause_errValue cause 3#4, rfl, hfaulted, hbusy, rfl⟩

/-! ### MIR of a frame with an unwritten cell (R176 item c) -/

/-- MIR answers a next state or refuses the frame as having an unwritten cell (log 4). -/
theorem execMir_cases (s : State) : (∃ t, execMir s = .next t) ∨ execMir s = .refused .unwrittenCell := by
  unfold execMir
  split
  next => exact .inl ⟨_, rfl⟩
  next => exact .inr rfl

/-- Settles O29: a next state would mean that every cell of the frame is written. -/
theorem mirRefusesAnUnwrittenCell : Obligations.MirRefusesAnUnwrittenCell := by
  intro s x y hx hy hunwritten
  refine (execMir_cases s).resolve_left fun ⟨t, hnext⟩ => ?_
  have hwritten := State.frameWritten_of_execMir hnext x y hx hy
  rw [hunwritten] at hwritten
  exact absurd hwritten (by decide)

end Sys2Proof.Machine
end

section
/-!
PROOFS. Reset and hazards (70_reset_and_hazards.md): the values a reset leaves, and which stages may exchange their order.
-/

namespace Sys2Proof.Machine

/-! ### The order of the stages (R196) -/

/-- From any cell the two source maps lead to the same cell in either order. -/
abbrev SourcesCommute (f g : Fin 8 → Fin 8 → Fin 8 × Fin 8) : Prop :=
  ∀ c r, f (g c r).1 (g c r).2 = g (f c r).1 (f c r).2

/-- The tile that holds its only mark in the cell `p`. -/
def Tile.marked (p : Fin 8 × Fin 8) : Tile := Tile.tabulate fun c r => if (c, r) = p then 1 else 0

theorem Tile.cell_marked_eq_one_iff (p q : Fin 8 × Fin 8) : (Tile.marked p).cell q.1 q.2 = 1 ↔ q = p := by
  simp [Tile.marked]

/-- Two source maps that permute every tile alike are equal: the tile marked in the one's source shows the other's. -/
theorem Tile.source_eq_of_permute_eq {f g : Fin 8 → Fin 8 → Fin 8 × Fin 8}
    (h : ∀ t : Tile, t.permute f = t.permute g) (c r : Fin 8) : f c r = g c r := by
  have hcell := congrArg (fun t => t.cell c r) (h (Tile.marked (g c r)))
  simp only [Tile.cell_permute] at hcell
  rw [← Tile.cell_marked_eq_one_iff, hcell, Tile.cell_marked_eq_one_iff]

/-- Two permutations commute on every tile exactly when their source maps do. -/
theorem Tile.permute_comm_iff {f g : Fin 8 → Fin 8 → Fin 8 × Fin 8} :
    (∀ t : Tile, (t.permute f).permute g = (t.permute g).permute f) ↔ SourcesCommute f g := by
  simp only [Tile.permute_permute]
  refine ⟨Tile.source_eq_of_permute_eq, fun h t => Tile.ext_cell fun c r => ?_⟩
  simp only [Tile.cell_permute, h c r]

/-- Both quadrants QSW exchanges are made of whole blocks of ROT. -/
theorem rotSource_comm_qswSource : SourcesCommute rotSource qswSource := by
  decide

/-- MCS moves the columns in the pairs ROT's blocks stand on. -/
theorem rotSource_comm_mcsSource : SourcesCommute rotSource mcsSource := by
  decide

/-- RGS reorders the rows of each half alike, and QSW exchanges the halves. -/
theorem qswSource_comm_rgsSource : SourcesCommute qswSource rgsSource := by
  decide

/-- MCS moves columns and RGS moves rows. -/
theorem mcsSource_comm_rgsSource : SourcesCommute mcsSource rgsSource := by
  decide

/-- RGS takes rows 0 and 1 of a block apart: from `(0, 0)` RGS and then ROT lead back, ROT and then RGS to `(1, 1)`. -/
theorem not_rotSource_comm_rgsSource : ¬ SourcesCommute rotSource rgsSource :=
  fun h => absurd (h 0 0) (by decide)

/-- MCS moves column 2 across the middle: from `(2, 0)` MCS and then QSW lead to `(0, 4)`, QSW and then MCS to `(4, 0)`. -/
theorem not_qswSource_comm_mcsSource : ¬ SourcesCommute qswSource mcsSource :=
  fun h => absurd (h 2 0) (by decide)

/-- Settles O24: each pair by its source maps; the two that do not commute by one cell each. -/
theorem exactlyTwoPairsOfStagesDoNotCommute : Obligations.ExactlyTwoPairsOfStagesDoNotCommute :=
  ⟨Tile.permute_comm_iff.2 rotSource_comm_qswSource, Tile.permute_comm_iff.2 rotSource_comm_mcsSource,
    Tile.permute_comm_iff.2 qswSource_comm_rgsSource, Tile.permute_comm_iff.2 mcsSource_comm_rgsSource,
    fun h => not_rotSource_comm_rgsSource (Tile.permute_comm_iff.1 h),
    fun h => not_qswSource_comm_mcsSource (Tile.permute_comm_iff.1 h)⟩

/-! ### Reset (R190, R191) -/

/-- `STATUS` in IDL: no flag (R140). -/
theorem State.status_of_idl {s : State} (h : s.phase = encode .idl) : s.status = 0#16 := by
  obtain ⟨hbusy, hdone, hfaulted⟩ := State.flags_of_phase h
  rw [State.status, hbusy, hdone, hfaulted]
  rfl

/-- RST dominates START (R142, R26). -/
theorem State.writeControl_of_rst {v : Half} (h : v.getLsbD 1 = true) (s : State) : s.writeControl v = s.resetBlock :=
  if_pos h

/-- Settles O39: both forms of reset answer the reset block, whose fields are known. -/
theorem resetPutsEveryRegisterToItsResetValue : Obligations.ResetPutsEveryRegisterToItsResetValue := by
  intro s
  have hwrite (v : Half) : performHost (.wr 0x0#4 v) s = .next (s.writeControl v) := rfl
  exact ⟨s.resetBlock, rfl, s.resetBlock_phase, State.status_of_idl s.resetBlock_phase, s.resetBlock_err,
    s.resetBlock_width, s.resetBlock_height, s.resetBlock_lwidth, s.resetBlock_lheight, s.resetBlock_tx, s.resetBlock_ty,
    s.resetBlock_offx, s.resetBlock_offy, s.resetBlock_vw, s.resetBlock_vh, s.resetBlock_input,
    fun v hrst => by rw [hwrite, State.writeControl_of_rst hrst]⟩

/-- After reset the engine holds in IDL: its step changes nothing (R191). -/
theorem step_reset : step State.reset = .next State.reset := by
  rw [step_of_silent State.reset_phase State.reset_err State.reset_turns]
  rfl

/-- Settles O40: the fields of the state after reset, and the hold. -/
theorem stateAfterResetHasTheResetValues : Obligations.StateAfterResetHasTheResetValues :=
  ⟨State.reset_phase, State.status_of_idl State.reset_phase, rfl, State.reset_err,
    State.reset_width, State.reset_height, State.reset_lwidth, State.reset_lheight, State.reset_tx, State.reset_ty,
    State.reset_offx, State.reset_offy, State.reset_vw, State.reset_vh, State.reset_input, step_reset⟩

theorem State.reset_untouched : State.reset.Untouched :=
  ⟨rfl, rfl, ⟨rfl, rfl⟩, ⟨rfl, rfl⟩, ⟨rfl, rfl⟩⟩

/-- Settles O50: after reset nothing has been touched, `PHASE` is IDL and `ERR` is 0. -/
theorem invariantHoldsAfterReset : Obligations.InvariantHoldsAfterReset :=
  State.reset_untouched.inv .idl State.reset_phase (by decide) State.reset_err

end Sys2Proof.Machine
end
